-- ==== Sys2Proof/Word.lean ====
section
/-! DEFINITION. The words of the block: bytes, the 4-bit algorithm identifier and the 16-bit quantities (00 R14). -/

namespace Sys2Proof

/-- A byte: an unsigned value 0 to 255 whose bit 7 is the most significant (00 R14). -/
abbrev Byte := BitVec 8

/-- A 4-bit value: an algorithm identifier or the reserved low nibble of the format byte (30 R83). -/
abbrev Nibble := BitVec 4

/-- A 16-bit value: the accumulator, and the port forms of the lengths. -/
abbrev Half := BitVec 16

end Sys2Proof
end

