-- ==== Sys2Proof/Config.lean ====
section
/-! DEFINITION. The configuration constants of an instance (10 R27, 00 R7 to R11) and the one free value. -/

namespace Sys2Proof

/-- The number of sync bytes, 1 or 2 (00 R7). -/
inductive NSync where
  | one
  | two
  deriving DecidableEq, Repr

/-- `NSYNC` as a number. -/
def NSync.toNat : NSync → Nat
  | .one => 1
  | .two => 2

/-- The configuration constants: "fixed at construction", "none of these may change for the life of
the instance" (10 R27). A model takes all of them as one record (00, section 3). -/
structure Config where
  /-- NSYNC (R7). -/
  nsync : NSync
  /-- SYNC1 (R9), any byte. -/
  sync1 : Byte
  /-- SYNC2 (R9), any byte, unused when NSYNC = 1. -/
  sync2 : Byte
  /-- RXCAP (R10), any natural number. -/
  rxCap : Nat
  /-- TXCAP (R10), any natural number. -/
  txCap : Nat
  /-- PROTOMAX (R11), 16 bits, at least HEADERLEN. -/
  protoMax : Half
  deriving DecidableEq, Repr

/-- The spec's defaults (10 R27) with the test sync values of 95_test_vectors.md (configuration T2).
DESIGN CHOICE (log entry 1): the spec leaves SYNC1 and SYNC2 open. -/
def Config.default : Config :=
  { nsync := .two, sync1 := 0xA5, sync2 := 0x5A, rxCap := 1024, txCap := 1024, protoMax := 65535 }

/-- CHECKLEN(a) for a = 5 to 15 is "undefined; never evaluated" (40 R110): a free value without a
body (log entry 12). -/
opaque Config.checkLenUnrecognized : Nibble → Nat

end Sys2Proof
end

