-- ==== Sys2Proof/Syntax.lean ====
section
/-! DEFINITION. The operations of the block: one constructor for each row of spec/opcode_table.json. -/

namespace Sys2Proof

/-- The rows of the opcode table with their operands. `b` is a submitted byte (`rx_data`), `a` a 4-bit
algorithm selector (`enc_alg`), `p` a payload (the payload source, 20 R53, taken by value), `r` the
reserved low nibble of a format byte. -/
inductive Instr where
  -- format OP: the operation selector (30 R95)
  /-- NOP (R95): no operation issued. -/
  | nop
  /-- SUBMIT (R130): one byte to the decoder. -/
  | submit (b : Byte)
  /-- ENCODE (R170): build a frame in TXBUF. -/
  | encode (a : Nibble) (p : List Byte)
  /-- RESET (R230). -/
  | reset
  -- format SUBMIT_ARM: the arms of SUBMIT, selected by STATE (41 R131)
  /-- SUBMIT.IDLE (R133). -/
  | submitIdle (b : Byte)
  /-- SUBMIT.SYNCPARTIAL (R134). -/
  | submitSyncPartial (b : Byte)
  /-- SUBMIT.HEADER (R135). -/
  | submitHeader (b : Byte)
  /-- SUBMIT.BODY (R136). -/
  | submitBody (b : Byte)
  -- format FMT: the format byte on the wire, `r` its reserved nibble (30 R83, R89)
  /-- FMT.NONE (R112): the format byte 0x0r. -/
  | fmtNone (r : Nibble)
  /-- FMT.SUM8 (R113): the format byte 0x1r. -/
  | fmtSum8 (r : Nibble)
  /-- FMT.SUM16 (R114): the format byte 0x2r. -/
  | fmtSum16 (r : Nibble)
  /-- FMT.CRC16 (R115): the format byte 0x3r. -/
  | fmtCrc16 (r : Nibble)
  /-- FMT.CRC32 (R116): the format byte 0x4r. -/
  | fmtCrc32 (r : Nibble)
  /-- FMT.UNRECOGNIZED_5 (R141): the format byte 0x5r. -/
  | fmtUnrecognized5 (r : Nibble)
  /-- FMT.UNRECOGNIZED_6 (R141): the format byte 0x6r. -/
  | fmtUnrecognized6 (r : Nibble)
  /-- FMT.UNRECOGNIZED_7 (R141): the format byte 0x7r. -/
  | fmtUnrecognized7 (r : Nibble)
  /-- FMT.UNRECOGNIZED_8 (R141): the format byte 0x8r. -/
  | fmtUnrecognized8 (r : Nibble)
  /-- FMT.UNRECOGNIZED_9 (R141): the format byte 0x9r. -/
  | fmtUnrecognized9 (r : Nibble)
  /-- FMT.UNRECOGNIZED_10 (R141): the format byte 0xAr. -/
  | fmtUnrecognized10 (r : Nibble)
  /-- FMT.UNRECOGNIZED_11 (R141): the format byte 0xBr. -/
  | fmtUnrecognized11 (r : Nibble)
  /-- FMT.UNRECOGNIZED_12 (R141): the format byte 0xCr. -/
  | fmtUnrecognized12 (r : Nibble)
  /-- FMT.UNRECOGNIZED_13 (R141): the format byte 0xDr. -/
  | fmtUnrecognized13 (r : Nibble)
  /-- FMT.UNRECOGNIZED_14 (R141): the format byte 0xEr. -/
  | fmtUnrecognized14 (r : Nibble)
  /-- FMT.UNRECOGNIZED_15 (R141): the format byte 0xFr. -/
  | fmtUnrecognized15 (r : Nibble)
  -- format ENCODE_ALG: ENCODE with its selector fixed (42 R172, R175, R176)
  /-- ENCODE.NONE (R175). -/
  | encodeNone (p : List Byte)
  /-- ENCODE.SUM8 (R176). -/
  | encodeSum8 (p : List Byte)
  /-- ENCODE.SUM16 (R176). -/
  | encodeSum16 (p : List Byte)
  /-- ENCODE.UNSUPPORTED_3 (R172): ENCODE with the selector 3. -/
  | encodeUnsupported3 (p : List Byte)
  /-- ENCODE.UNSUPPORTED_4 (R172): ENCODE with the selector 4. -/
  | encodeUnsupported4 (p : List Byte)
  /-- ENCODE.UNSUPPORTED_5 (R172): ENCODE with the selector 5. -/
  | encodeUnsupported5 (p : List Byte)
  /-- ENCODE.UNSUPPORTED_6 (R172): ENCODE with the selector 6. -/
  | encodeUnsupported6 (p : List Byte)
  /-- ENCODE.UNSUPPORTED_7 (R172): ENCODE with the selector 7. -/
  | encodeUnsupported7 (p : List Byte)
  /-- ENCODE.UNSUPPORTED_8 (R172): ENCODE with the selector 8. -/
  | encodeUnsupported8 (p : List Byte)
  /-- ENCODE.UNSUPPORTED_9 (R172): ENCODE with the selector 9. -/
  | encodeUnsupported9 (p : List Byte)
  /-- ENCODE.UNSUPPORTED_10 (R172): ENCODE with the selector 10. -/
  | encodeUnsupported10 (p : List Byte)
  /-- ENCODE.UNSUPPORTED_11 (R172): ENCODE with the selector 11. -/
  | encodeUnsupported11 (p : List Byte)
  /-- ENCODE.UNSUPPORTED_12 (R172): ENCODE with the selector 12. -/
  | encodeUnsupported12 (p : List Byte)
  /-- ENCODE.UNSUPPORTED_13 (R172): ENCODE with the selector 13. -/
  | encodeUnsupported13 (p : List Byte)
  /-- ENCODE.UNSUPPORTED_14 (R172): ENCODE with the selector 14. -/
  | encodeUnsupported14 (p : List Byte)
  /-- ENCODE.UNSUPPORTED_15 (R172): ENCODE with the selector 15. -/
  | encodeUnsupported15 (p : List Byte)
  -- formats F2 and F1: a whole frame, `fmt` its format byte, `body` its payload and check bytes
  /-- FRAME.F2 (R81): the dual-sync frame, its length field 5 + the length of `body`. -/
  | frameF2 (fmt : Byte) (body : List Byte)
  /-- FRAME.F1 (R82): the single-sync frame, its length field 4 + the length of `body`. -/
  | frameF1 (fmt : Byte) (body : List Byte)
  -- format INTERNAL: "no encoding: invoked by the operations above, never selected directly"
  /-- PUSH (R132). -/
  | push (b : Byte)
  /-- HEADER_CHECK (R140). -/
  | headerCheck
  /-- FRAME_COMPLETE (R145). -/
  | frameComplete
  /-- DELIVER (R150), `p` the payload view by value. -/
  | deliver (p : List Byte)
  /-- RESET_TO_IDLE (R200). -/
  | resetToIdle
  /-- CHECKLEN (R110). -/
  | checkLen (a : Nibble)
  /-- CK (R122). -/
  | ck (a : Nibble) (span : List Byte)
  /-- CK_INIT (R117). -/
  | ckInit
  /-- CK_UPDATE (R117). -/
  | ckUpdate (b : Byte)
  /-- CK_FINAL (R117). -/
  | ckFinal (a : Nibble)
  deriving DecidableEq, Repr

end Sys2Proof
end

