-- ==== Sys2Proof/WellFormed.lean ====
section
/-! DEFINITION. Well-formedness of an operation: what its operand widths admit. -/

namespace Sys2Proof

/-- The payload length fits the 16-bit port `enc_len` or `msg_len` (42 R171, 30 R95). -/
def lengthFits (p : List Byte) : Bool := p.length < 65536

/-- The total length of a frame with a header of `hl` bytes fits the 16-bit length field (30 R80). -/
def frameFits (hl : Nat) (body : List Byte) : Bool := hl + body.length < 65536

/-- An operation whose operands fit their widths. The widths of single bytes and nibbles are in the types. -/
def Instr.wf : Instr → Bool
  | .encode _ p => lengthFits p
  | .encodeNone p => lengthFits p
  | .encodeSum8 p => lengthFits p
  | .encodeSum16 p => lengthFits p
  | .encodeUnsupported3 p => lengthFits p
  | .encodeUnsupported4 p => lengthFits p
  | .encodeUnsupported5 p => lengthFits p
  | .encodeUnsupported6 p => lengthFits p
  | .encodeUnsupported7 p => lengthFits p
  | .encodeUnsupported8 p => lengthFits p
  | .encodeUnsupported9 p => lengthFits p
  | .encodeUnsupported10 p => lengthFits p
  | .encodeUnsupported11 p => lengthFits p
  | .encodeUnsupported12 p => lengthFits p
  | .encodeUnsupported13 p => lengthFits p
  | .encodeUnsupported14 p => lengthFits p
  | .encodeUnsupported15 p => lengthFits p
  | .frameF2 _ body => frameFits 5 body
  | .frameF1 _ body => frameFits 4 body
  | .deliver p => lengthFits p
  | .nop => true
  | .submit _ => true
  | .reset => true
  | .submitIdle _ => true
  | .submitSyncPartial _ => true
  | .submitHeader _ => true
  | .submitBody _ => true
  | .fmtNone _ => true
  | .fmtSum8 _ => true
  | .fmtSum16 _ => true
  | .fmtCrc16 _ => true
  | .fmtCrc32 _ => true
  | .fmtUnrecognized5 _ => true
  | .fmtUnrecognized6 _ => true
  | .fmtUnrecognized7 _ => true
  | .fmtUnrecognized8 _ => true
  | .fmtUnrecognized9 _ => true
  | .fmtUnrecognized10 _ => true
  | .fmtUnrecognized11 _ => true
  | .fmtUnrecognized12 _ => true
  | .fmtUnrecognized13 _ => true
  | .fmtUnrecognized14 _ => true
  | .fmtUnrecognized15 _ => true
  | .push _ => true
  | .headerCheck => true
  | .frameComplete => true
  | .resetToIdle => true
  | .checkLen _ => true
  | .ck _ _ => true
  | .ckInit => true
  | .ckUpdate _ => true
  | .ckFinal _ => true

end Sys2Proof
end

