-- ==== Sys2Proof/Decode.lean ====
section
/-! DEFINITION. The encodings of spec/opcode_table.json (30 R83, R89, R95; 42 R171), the total decoder and the encoder,
with the byte-order and bit-field helpers of 00 R14.

THE COMMAND ENCODING (DESIGN CHOICE, log entry 4). The block fetches no instructions (20 R70); the table's words
live on different ports: `op`, the register STATE, the format byte and `enc_alg`. The model writes the operations the
environment issues as a byte sequence: first the row's own word as the table has it (the selector byte), then a
byte that names the table's format, then the operands:

  OP           w 00 operands     NOP: none, SUBMIT: b, ENCODE: a lenHi lenLo payload, RESET: none
  SUBMIT_ARM   w 01 b
  FMT          w 02              w is the format byte
  ENCODE_ALG   w 03 lenHi lenLo payload
  F2, F1       w 04, w 05        w is the format byte, then lenHi lenLo (the frame's length field) and the body

A selector byte with the format byte 00 that is no value of `op` (4 to 255) is read as the row it can only be: 4 to 15 as
an `enc_alg` selector, 16 to 255 as a format byte (log entry 5). -/

namespace Sys2Proof

/-- `b[7:4]` (00 R14, 20 R58). -/
def hiNibble (b : Byte) : Nibble := b.extractLsb' 4 4

/-- `b[3:0]` (00 R14). -/
def loNibble (b : Byte) : Nibble := b.extractLsb' 0 4

/-- The format byte with algorithm identifier `a` and reserved nibble `r` (30 R83, R85). -/
def fmtByte (a r : Nibble) : Byte := a ++ r

/-- `BE16(h, l) = h * 256 + l` (00 R14, 20 R56). -/
def be16 (h l : Byte) : Nat := h.toNat * 256 + l.toNat

/-- `HI(v) = (v >> 8) mod 256` (00 R14). -/
def hiByte (v : Nat) : Byte := BitVec.ofNat 8 (v / 256)

/-- `LO(v) = v mod 256` (00 R14). -/
def loByte (v : Nat) : Byte := BitVec.ofNat 8 v

/-- Why a byte sequence is no command. Raised by `decode`. Safe: the block has no such operation. -/
inductive DecodeError where
  /-- No selector byte, or no format byte after it. -/
  | incomplete
  /-- The operands end early. -/
  | truncated
  /-- A format byte of the command encoding that names no format of the table. -/
  | reservedFormat (f : Byte)
  /-- A selector that is no word of the named format. -/
  | reservedSelector (w : Byte)
  /-- A frame's length field below the length of its header (30 R91). -/
  | shortFrame (len : Nat)
  deriving DecidableEq, Repr

/-- The result of reading one command: the operation and the bytes after it. -/
abbrev Decoded := Except DecodeError (Instr × List Byte)

/-- The format byte rows, by the high nibble (30 R89). -/
def fmtInstr (a r : Nibble) : Instr :=
  match a.toNat with
  | 0 => .fmtNone r
  | 1 => .fmtSum8 r
  | 2 => .fmtSum16 r
  | 3 => .fmtCrc16 r
  | 4 => .fmtCrc32 r
  | 5 => .fmtUnrecognized5 r
  | 6 => .fmtUnrecognized6 r
  | 7 => .fmtUnrecognized7 r
  | 8 => .fmtUnrecognized8 r
  | 9 => .fmtUnrecognized9 r
  | 10 => .fmtUnrecognized10 r
  | 11 => .fmtUnrecognized11 r
  | 12 => .fmtUnrecognized12 r
  | 13 => .fmtUnrecognized13 r
  | 14 => .fmtUnrecognized14 r
  | _ => .fmtUnrecognized15 r

/-- The ENCODE_ALG rows, by the selector `enc_alg` (30 R95, 42 R172). -/
def encodeInstr (a : Nibble) (p : List Byte) : Instr :=
  match a.toNat with
  | 0 => .encodeNone p
  | 1 => .encodeSum8 p
  | 2 => .encodeSum16 p
  | 3 => .encodeUnsupported3 p
  | 4 => .encodeUnsupported4 p
  | 5 => .encodeUnsupported5 p
  | 6 => .encodeUnsupported6 p
  | 7 => .encodeUnsupported7 p
  | 8 => .encodeUnsupported8 p
  | 9 => .encodeUnsupported9 p
  | 10 => .encodeUnsupported10 p
  | 11 => .encodeUnsupported11 p
  | 12 => .encodeUnsupported12 p
  | 13 => .encodeUnsupported13 p
  | 14 => .encodeUnsupported14 p
  | _ => .encodeUnsupported15 p

/-- Take `n` operand bytes. -/
def takeBytes (n : Nat) (bs : List Byte) (k : List Byte → List Byte → Decoded) : Decoded :=
  if n ≤ bs.length then k (bs.take n) (bs.drop n) else .error .truncated

/-- Take one operand byte. -/
def takeByte (bs : List Byte) (k : Byte → List Byte → Decoded) : Decoded :=
  match bs with
  | b :: rest => k b rest
  | [] => .error .truncated

/-- Take a 16-bit length, high byte first. -/
def takeLen (bs : List Byte) (k : Nat → List Byte → Decoded) : Decoded :=
  match bs with
  | h :: l :: rest => k (be16 h l) rest
  | _ => .error .truncated

/-- Take a payload: its length `enc_len`, then its bytes. -/
def takePayload (bs : List Byte) (k : List Byte → List Byte → Decoded) : Decoded :=
  takeLen bs fun n rest => takeBytes n rest k

/-- ENCODE_ALG operands after a selector. -/
def decodeEncodeAlg (w : Byte) (bs : List Byte) : Decoded :=
  if hiNibble w = 0 then takePayload bs fun p rest => .ok (encodeInstr (loNibble w) p, rest)
  else .error (.reservedSelector w)

/-- Format OP, and the bare words above the operation selector. -/
def decodeOp (w : Byte) (bs : List Byte) : Decoded :=
  match w.toNat with
  | 0 => .ok (.nop, bs)
  | 1 => takeByte bs fun b rest => .ok (.submit b, rest)
  | 2 => takeByte bs fun a rest =>
      if hiNibble a = 0 then takePayload rest fun p rest => .ok (.encode (loNibble a) p, rest)
      else .error (.reservedSelector a)
  | 3 => .ok (.reset, bs)
  | _ => if hiNibble w = 0 then decodeEncodeAlg w bs else .ok (fmtInstr (hiNibble w) (loNibble w), bs)

/-- Format SUBMIT_ARM: the word is the code of STATE (10 R20). -/
def decodeArm (w : Byte) (bs : List Byte) : Decoded :=
  takeByte bs fun b rest =>
    match w.toNat with
    | 0 => .ok (.submitIdle b, rest)
    | 1 => .ok (.submitSyncPartial b, rest)
    | 2 => .ok (.submitHeader b, rest)
    | 3 => .ok (.submitBody b, rest)
    | _ => .error (.reservedSelector w)

/-- Formats F2 and F1: the length field counts the header's `hl` bytes (30 R84). -/
def decodeFrame (hl : Nat) (mk : List Byte → Instr) (bs : List Byte) : Decoded :=
  takeLen bs fun len rest =>
    if len < hl then .error (.shortFrame len)
    else takeBytes (len - hl) rest fun body rest => .ok (mk body, rest)

/-- Read one command. Total on any bytes; what is no command is rejected by name. -/
def decode (bs : List Byte) : Decoded :=
  match bs with
  | w :: f :: rest =>
    match f.toNat with
    | 0 => decodeOp w rest
    | 1 => decodeArm w rest
    | 2 => .ok (fmtInstr (hiNibble w) (loNibble w), rest)
    | 3 => decodeEncodeAlg w rest
    | 4 => decodeFrame 5 (.frameF2 w) rest
    | 5 => decodeFrame 4 (.frameF1 w) rest
    | _ => .error (.reservedFormat f)
  | _ => .error .incomplete

/-- A length and the bytes it counts. -/
def payloadBytes (p : List Byte) : List Byte := hiByte p.length :: loByte p.length :: p

/-- The command of a format byte row. -/
def fmtCommand (a r : Nibble) : List Byte := [fmtByte a r, 2]

/-- The command of an ENCODE_ALG row. -/
def encodeAlgCommand (a : Nibble) (p : List Byte) : List Byte := fmtByte 0 a :: 3 :: payloadBytes p

/-- The command of a frame row: format byte, length field, body. -/
def frameCommand (hl : Nat) (f fmt : Byte) (body : List Byte) : List Byte :=
  fmt :: f :: hiByte (hl + body.length) :: loByte (hl + body.length) :: body

/-- The bytes of a well-formed operation; none for the INTERNAL rows, which have no encoding. -/
def encode : Instr → Option (List Byte)
  | .nop => some [0, 0]
  | .submit b => some [1, 0, b]
  | .encode a p => some (2 :: 0 :: fmtByte 0 a :: payloadBytes p)
  | .reset => some [3, 0]
  | .submitIdle b => some [0, 1, b]
  | .submitSyncPartial b => some [1, 1, b]
  | .submitHeader b => some [2, 1, b]
  | .submitBody b => some [3, 1, b]
  | .fmtNone r => some (fmtCommand 0 r)
  | .fmtSum8 r => some (fmtCommand 1 r)
  | .fmtSum16 r => some (fmtCommand 2 r)
  | .fmtCrc16 r => some (fmtCommand 3 r)
  | .fmtCrc32 r => some (fmtCommand 4 r)
  | .fmtUnrecognized5 r => some (fmtCommand 5 r)
  | .fmtUnrecognized6 r => some (fmtCommand 6 r)
  | .fmtUnrecognized7 r => some (fmtCommand 7 r)
  | .fmtUnrecognized8 r => some (fmtCommand 8 r)
  | .fmtUnrecognized9 r => some (fmtCommand 9 r)
  | .fmtUnrecognized10 r => some (fmtCommand 10 r)
  | .fmtUnrecognized11 r => some (fmtCommand 11 r)
  | .fmtUnrecognized12 r => some (fmtCommand 12 r)
  | .fmtUnrecognized13 r => some (fmtCommand 13 r)
  | .fmtUnrecognized14 r => some (fmtCommand 14 r)
  | .fmtUnrecognized15 r => some (fmtCommand 15 r)
  | .encodeNone p => some (encodeAlgCommand 0 p)
  | .encodeSum8 p => some (encodeAlgCommand 1 p)
  | .encodeSum16 p => some (encodeAlgCommand 2 p)
  | .encodeUnsupported3 p => some (encodeAlgCommand 3 p)
  | .encodeUnsupported4 p => some (encodeAlgCommand 4 p)
  | .encodeUnsupported5 p => some (encodeAlgCommand 5 p)
  | .encodeUnsupported6 p => some (encodeAlgCommand 6 p)
  | .encodeUnsupported7 p => some (encodeAlgCommand 7 p)
  | .encodeUnsupported8 p => some (encodeAlgCommand 8 p)
  | .encodeUnsupported9 p => some (encodeAlgCommand 9 p)
  | .encodeUnsupported10 p => some (encodeAlgCommand 10 p)
  | .encodeUnsupported11 p => some (encodeAlgCommand 11 p)
  | .encodeUnsupported12 p => some (encodeAlgCommand 12 p)
  | .encodeUnsupported13 p => some (encodeAlgCommand 13 p)
  | .encodeUnsupported14 p => some (encodeAlgCommand 14 p)
  | .encodeUnsupported15 p => some (encodeAlgCommand 15 p)
  | .frameF2 fmt body => some (frameCommand 5 4 fmt body)
  | .frameF1 fmt body => some (frameCommand 4 5 fmt body)
  | .push _ => none
  | .headerCheck => none
  | .frameComplete => none
  | .deliver _ => none
  | .resetToIdle => none
  | .checkLen _ => none
  | .ck _ _ => none
  | .ckInit => none
  | .ckUpdate _ => none
  | .ckFinal _ => none

/-- The match and the mask of a row, as spec/opcode_table.json has them; none for the rows without fixed bits. -/
def tableRow : Instr → Option (Byte × Byte)
  | .nop => some (0x0, 0x3)
  | .submit _ => some (0x1, 0x3)
  | .encode _ _ => some (0x2, 0x3)
  | .reset => some (0x3, 0x3)
  | .submitIdle _ => some (0x0, 0x3)
  | .submitSyncPartial _ => some (0x1, 0x3)
  | .submitHeader _ => some (0x2, 0x3)
  | .submitBody _ => some (0x3, 0x3)
  | .fmtNone _ => some (0x00, 0xF0)
  | .fmtSum8 _ => some (0x10, 0xF0)
  | .fmtSum16 _ => some (0x20, 0xF0)
  | .fmtCrc16 _ => some (0x30, 0xF0)
  | .fmtCrc32 _ => some (0x40, 0xF0)
  | .fmtUnrecognized5 _ => some (0x50, 0xF0)
  | .fmtUnrecognized6 _ => some (0x60, 0xF0)
  | .fmtUnrecognized7 _ => some (0x70, 0xF0)
  | .fmtUnrecognized8 _ => some (0x80, 0xF0)
  | .fmtUnrecognized9 _ => some (0x90, 0xF0)
  | .fmtUnrecognized10 _ => some (0xA0, 0xF0)
  | .fmtUnrecognized11 _ => some (0xB0, 0xF0)
  | .fmtUnrecognized12 _ => some (0xC0, 0xF0)
  | .fmtUnrecognized13 _ => some (0xD0, 0xF0)
  | .fmtUnrecognized14 _ => some (0xE0, 0xF0)
  | .fmtUnrecognized15 _ => some (0xF0, 0xF0)
  | .encodeNone _ => some (0x0, 0xF)
  | .encodeSum8 _ => some (0x1, 0xF)
  | .encodeSum16 _ => some (0x2, 0xF)
  | .encodeUnsupported3 _ => some (0x3, 0xF)
  | .encodeUnsupported4 _ => some (0x4, 0xF)
  | .encodeUnsupported5 _ => some (0x5, 0xF)
  | .encodeUnsupported6 _ => some (0x6, 0xF)
  | .encodeUnsupported7 _ => some (0x7, 0xF)
  | .encodeUnsupported8 _ => some (0x8, 0xF)
  | .encodeUnsupported9 _ => some (0x9, 0xF)
  | .encodeUnsupported10 _ => some (0xA, 0xF)
  | .encodeUnsupported11 _ => some (0xB, 0xF)
  | .encodeUnsupported12 _ => some (0xC, 0xF)
  | .encodeUnsupported13 _ => some (0xD, 0xF)
  | .encodeUnsupported14 _ => some (0xE, 0xF)
  | .encodeUnsupported15 _ => some (0xF, 0xF)
  | .frameF2 _ _ => none
  | .frameF1 _ _ => none
  | .push _ => none
  | .headerCheck => none
  | .frameComplete => none
  | .deliver _ => none
  | .resetToIdle => none
  | .checkLen _ => none
  | .ck _ _ => none
  | .ckInit => none
  | .ckUpdate _ => none
  | .ckFinal _ => none

/-- The `k` low bytes of `w`, the least significant first, as the table numbers its bits. -/
def lowBytes : Nat → Nat → List Byte
  | 0, _ => []
  | k + 1, w => BitVec.ofNat 8 w :: lowBytes k (w / 256)

/-- A table word laid out as a command: its bytes, then zeros for everything above it (the format byte and the fixed operands). -/
def layWord (nbits w : Nat) : List Byte := lowBytes ((nbits + 7) / 8) w ++ [0, 0, 0, 0, 0]

/-- The operation the decoder reads from a table word. -/
def decodeTableWord (nbits w : Nat) : Option Instr :=
  match decode (layWord nbits w) with
  | .ok (i, _) => some i
  | .error _ => none

/-- The command bytes of a table word: as many of the bytes laid out as its operation takes. -/
def commandOfWord (nbits w : Nat) : List Byte :=
  match decode (layWord nbits w) with
  | .ok (_, rest) => (layWord nbits w).take ((layWord nbits w).length - rest.length)
  | .error _ => layWord nbits w

end Sys2Proof
end

