-- ==== Sys2Proof/Machine/State.lean ====
section
/-! DEFINITION. The state of the block as plain data, the reasons a step can stop, and the state after reset (10_state.md). -/

namespace Sys2Proof.Machine

/-- STATE, the decoder's position in the frame grammar (10 R20). -/
inductive DecoderState where
  | idle
  | syncPartial
  | headerPending
  | bodyPending
  deriving DecidableEq, Repr

/-- The event label of a SUBMIT (60 R190): the spec's own instrumentation, not shown by the hardware (R191). -/
inductive Event where
  /-- EV_DISCARD: noise byte dropped in Idle. -/
  | discard
  /-- E1 InvalidSync. -/
  | invalidSync
  /-- E2 InvalidAlgorithm. -/
  | invalidAlgorithm
  /-- E3 LengthOutOfBounds. -/
  | lengthOutOfBounds
  /-- E4 ChecksumMismatch. -/
  | checksumMismatch
  /-- E5 BufferOverflow. -/
  | bufferOverflow
  /-- EV_SYNC1: first sync byte accepted. -/
  | sync1
  /-- EV_SYNC2: second sync byte accepted. -/
  | sync2
  /-- EV_HDR: header byte stored, header not yet complete. -/
  | hdr
  /-- EV_HDROK: header complete and accepted. -/
  | hdrOk
  /-- EV_BODY: body byte stored, frame not yet complete. -/
  | body
  /-- EV_DELIVER: frame complete and valid. -/
  | deliver
  deriving DecidableEq, Repr

/-- The cause of a failing ENCODE (42 R181): the spec's own names, the caller cannot tell them apart. -/
inductive EncodeCause where
  /-- EF1 UnsupportedAlgorithm. -/
  | unsupportedAlgorithm
  /-- EF2 OutputCapacityExceeded. -/
  | outputCapacityExceeded
  /-- EF3 ProtocolMaxExceeded. -/
  | protocolMaxExceeded
  deriving DecidableEq, Repr

/-- The result of an ENCODE (42 R170, R174, R177). -/
inductive EncodeResult where
  | ok (packetLen : Nat)
  | fail
  deriving DecidableEq, Repr

/-- What the last operation put out. It lives for one operation: every operation writes all of it and none
reads it (10 R29, 30 R95). `event` and `cause` are instrumentation (60 R191, 42 R181); `value` is the
answer of CHECKLEN, CK and CK_FINAL (log entry 13). -/
structure Output where
  /-- The payload of the DELIVER this operation emitted. -/
  deliver : Option (List Byte) := none
  /-- The event label of this SUBMIT. -/
  event : Option Event := none
  /-- The result of this ENCODE. -/
  encResult : Option EncodeResult := none
  /-- The cause when this ENCODE failed. -/
  cause : Option EncodeCause := none
  /-- The value this pure function answered. -/
  value : Option Nat := none
  deriving DecidableEq, Repr

/-- A byte buffer (20 R50): its written bytes, by rising index. An index that is not listed holds no value
(10 R35: unspecified after reset; log entry 2). -/
abbrev Memory := List Host.Cell

/-- Where the machine stops. Both kinds are safe: the hardware has no run that gets there. -/
inductive Fault where
  /-- RxRead of an index of RXCAP or more (20 R55, 00 R16: "defined only for 0 <= i < RXCAP"). Raised by HEADER_CHECK and
  FRAME_COMPLETE in a state no run reaches. Safe. -/
  | rxOutOfRange (i : Nat)
  /-- RxRead of a dead byte, one at COUNT or above (10 R32: unspecified, and no result may depend on it; 70 R232: no rule
  reads one). Raised by HEADER_CHECK and FRAME_COMPLETE run by themselves with a COUNT the spec never runs them with, and by
  no SUBMIT. Safe (log entry 21). -/
  | rxDead (i : Nat)
  /-- RxRead of a live byte nothing has written (10 R35: unspecified). Raised by HEADER_CHECK and FRAME_COMPLETE in a
  state no run reaches. Safe. -/
  | rxUnwritten (i : Nat)
  /-- FRAME_COMPLETE with PKTLEN below HEADERLEN + CHECKLEN(ALG): PAYLEN would be negative (10 R22, R24). Raised in a
  state no run reaches. Safe. -/
  | spanInverted
  deriving DecidableEq, Repr

/-- What has no meaning. -/
inductive Refusal where
  /-- An instruction without a meaning yet. Raised by `exec` only. Safe. -/
  | notModelled (mnemonic : String)
  /-- An arm of SUBMIT asked for while STATE selects another one (41 R131: "Exactly one arm runs per SUBMIT"). Raised by the
  four SUBMIT.* rows. Safe (log entry 7). -/
  | armNotSelected
  /-- A checksum of an algorithm that has no function (40 R122: "not defined for any other a and is never called with one";
  93 U1, U2: refuse). Raised by CK, CK_FINAL and, in a state no run reaches, FRAME_COMPLETE. Safe (log entry 11). -/
  | checksumNotDefined (a : Nibble)
  /-- Bytes of the command stream that are no command. Raised by `step`. Safe (log entry 6). -/
  | illegalCommand (e : DecodeError)
  deriving DecidableEq, Repr

/-- The state of the block (10_state.md), its configuration (10 R27), the outputs of the last operation, and the
model's own record of what the sink received and of what the environment will still issue. -/
structure State where
  /-- The configuration constants (10 R27); no operation writes them. -/
  cfg : Config
  /-- STATE (10 R20). -/
  state : DecoderState
  /-- COUNT (10 R21), 16 bits by the invariant of R34. -/
  count : Nat
  /-- PKTLEN (10 R22), 16 bits by the invariant of R34. -/
  pktlen : Nat
  /-- ALG (10 R23). -/
  alg : Nibble
  /-- RXBUF (10 R25). -/
  rxbuf : Memory
  /-- TXBUF (10 R26). -/
  txbuf : Memory
  /-- ACC (10 R33), not architectural: written by CK_INIT and CK_UPDATE only. -/
  acc : Half
  /-- The outputs of the last operation (30 R95). -/
  out : Output
  /-- MODEL: the DELIVER payloads the sink received, oldest first (00 R19; log entry 14). -/
  sink : List (List Byte)
  /-- MODEL: the commands the environment will still issue (00 R17, R18; log entry 4). -/
  cmds : List Byte
  deriving DecidableEq, Repr

/-- The power-on state of an instance built with the configuration `c` (70 R231, 10 R35). -/
def State.powerOn (c : Config) : State :=
  { cfg := c, state := .idle, count := 0, pktlen := 0, alg := 0, rxbuf := [], txbuf := [], acc := 0, out := {},
    sink := [], cmds := [] }

/-- The machine right after reset, with the spec's default configuration (log entry 1). -/
def State.reset : State := State.powerOn Config.default

end Sys2Proof.Machine
end

