-- ==== Sys2Proof/Machine/Ops.lean ====
section
/-! DEFINITION. The named operations over the buffers and the registers, and the reset to Idle that every rejection takes. -/

namespace Sys2Proof

/-- HEADERLEN = NSYNC + 3 (00 R8). -/
def Config.headerLen (c : Config) : Nat := c.nsync.toNat + 3

/-- min(RXCAP, PROTOMAX), the upper bound of an accepted packet length (41 R143). -/
def Config.rxMax (c : Config) : Nat := min c.rxCap c.protoMax.toNat

/-- The legal configurations: HEADERLEN <= PROTOMAX (00 R11). The other bounds are in the types. -/
def Config.wf (c : Config) : Bool := c.headerLen ≤ c.protoMax.toNat

namespace Machine

/-- An outcome of this machine. -/
abbrev Result := Host.Outcome State Fault Refusal

/-- Go on from a next state; a stop stays. -/
def andThen (o : Result) (k : State → Result) : Result :=
  match o with
  | .next s => k s
  | .fault f => .fault f
  | .refused r => .refused r

/-- The byte at index `a`, if one was written. -/
def Memory.read : Memory → Nat → Option Byte
  | [], _ => none
  | (x, v) :: m, a => if x = a then some v else Memory.read m a

/-- Store `v` at index `a`, keeping the indices rising. -/
def Memory.write : Memory → Nat → Byte → Memory
  | [], a, v => [(a, v)]
  | (x, w) :: m, a, v =>
    if a < x then (a, v) :: (x, w) :: m
    else if a = x then (a, v) :: m
    else (x, w) :: Memory.write m a v

/-- Store `vs` at the indices from `a` on. -/
def Memory.writeAll : Memory → Nat → List Byte → Memory
  | m, _, [] => m
  | m, a, v :: vs => Memory.writeAll (Memory.write m a v) (a + 1) vs

/-- The canonical form: indices strictly rising. An unlisted index has no value, so no entry equals it. -/
def Memory.wf : Memory → Bool
  | [] => true
  | (x, _) :: m => (m.all fun c => decide (x < c.1)) && Memory.wf m

/-- Every listed index is below the capacity (20 R55). -/
def Memory.below (m : Memory) (cap : Nat) : Bool := m.all fun c => decide (c.1 < cap)

/-- RxRead(i) (00 R16): defined below RXCAP only, and for a live byte, one below COUNT (10 R25): no result may depend on a dead
byte (10 R32, 70 R232). DESIGN CHOICE (log entry 21): a read of a dead byte stops. -/
def rxRead (s : State) (i : Nat) : Except Fault Byte :=
  if s.cfg.rxCap ≤ i then .error (.rxOutOfRange i)
  else if s.count ≤ i then .error (.rxDead i)
  else
    match Memory.read s.rxbuf i with
    | some b => .ok b
    | none => .error (.rxUnwritten i)

/-- RXBUF[i ..< i + n] (00 R15). -/
def rxSpan (s : State) : Nat → Nat → Except Fault (List Byte)
  | _, 0 => .ok []
  | i, n + 1 =>
    match rxRead s i with
    | .error f => .error f
    | .ok b =>
      match rxSpan s (i + 1) n with
      | .error f => .error f
      | .ok bs => .ok (b :: bs)

/-- Clear the outputs: this operation puts none out. -/
def State.quiet (s : State) : State := { s with out := {} }

/-- End a SUBMIT step with the event label `e` (60 R190). -/
def State.emit (s : State) (e : Event) : State := { s with out := { event := some e } }

/-- The result of a pure function (log entry 13). -/
def State.answer (s : State) (v : Nat) : State := { s with out := { value := some v } }

/-- RxWrite(COUNT, b) and COUNT <- COUNT + 1, the accepting half of PUSH (41 R132). Its one caller, `push`, tests the
capacity first. -/
def State.store (s : State) (b : Byte) : State :=
  { s with rxbuf := Memory.write s.rxbuf s.count b, count := s.count + 1 }

/-- The reset to Idle, the block's only recovery action (60 R200): four registers; RXBUF is not written. -/
def State.toIdle (s : State) : State := { s with state := .idle, count := 0, pktlen := 0, alg := 0 }

/-- `reject <Kind>`, the block's raise (00 R16): the reset to Idle ends the step with the event `e`. Nothing is saved and
control goes nowhere (60 R200). There is no return from it: the next SUBMIT runs in Idle (60 R202). -/
def State.reject (s : State) (e : Event) : State := s.toIdle.emit e

/-- `deliver(p)` (41 R150): the sink is invoked once with the payload view `p` and its length. -/
def State.deliver (s : State) (p : List Byte) : State :=
  { s with sink := s.sink ++ [p], out := { deliver := some p, event := some .deliver } }

/-- PUSH(b) (41 R132), going on with `k`: the overflow test comes before the write, and a rejection ends the step. -/
def push (b : Byte) (k : State → Result) (s : State) : Result :=
  if s.cfg.rxCap < s.count + 1 then .next (s.reject .bufferOverflow) else k (s.store b)

end Machine

end Sys2Proof
end

