-- ==== Sys2Proof/Machine/Flags.lean ====
section
/-! DEFINITION. What behaves like flags: the output ports of an operation (10 R29, 30 R95), the numeric codes of STATE and of
the event labels, and the predicates SUPPORTED and RECOGNIZED. -/

namespace Sys2Proof.Machine

/-- SUPPORTED(a): true for a = 0, 1, 2 (40 R111). -/
def supported (a : Nibble) : Bool := a.toNat ≤ 2

/-- RECOGNIZED(a): true for a = 0 to 4 (40 R111). -/
def recognized (a : Nibble) : Bool := a.toNat ≤ 4

/-- `msg_valid`: 1 exactly when the SUBMIT step emits DELIVER (30 R95). -/
def Output.msgValid (o : Output) : Bool := o.deliver.isSome

/-- `msg_len[15:0]`: PAYLEN of the delivered payload (30 R95). DESIGN CHOICE (log entry 13): 0 while `msg_valid` is 0. -/
def Output.msgLen (o : Output) : Half :=
  match o.deliver with
  | some p => BitVec.ofNat 16 p.length
  | none => 0

/-- `enc_ok` (30 R95). DESIGN CHOICE (log entry 13): 0 after an operation that is no ENCODE. -/
def Output.encOk (o : Output) : Bool :=
  match o.encResult with
  | some (.ok _) => true
  | some .fail => false
  | none => false

/-- `enc_pktlen[15:0]`: packetLen for ok, 0 for fail (30 R95, 42 R174). DESIGN CHOICE (log entry 13): 0 after an operation that
is no ENCODE. -/
def Output.encPktlen (o : Output) : Half :=
  match o.encResult with
  | some (.ok n) => BitVec.ofNat 16 n
  | some .fail => 0
  | none => 0

/-- The numeric code of STATE (10 R20). -/
def DecoderState.code : DecoderState → BitVec 2
  | .idle => 0
  | .syncPartial => 1
  | .headerPending => 2
  | .bodyPending => 3

/-- The numeric code of an event label (60 R190); 6, 7, 14 and 15 are unused. -/
def Event.code : Event → Nat
  | .discard => 0
  | .invalidSync => 1
  | .invalidAlgorithm => 2
  | .lengthOutOfBounds => 3
  | .checksumMismatch => 4
  | .bufferOverflow => 5
  | .sync1 => 8
  | .sync2 => 9
  | .hdr => 10
  | .hdrOk => 11
  | .body => 12
  | .deliver => 13

end Sys2Proof.Machine
end

