-- ==== Sys2Proof/Machine/Operands.lean ====
section
/-! DEFINITION. Operand forms: the fields of a frame (30_encoding.md), check lengths, sums and spans. -/

namespace Sys2Proof.Machine

/-- CHECKLEN(a) (40 R110): 0/1/2/2/4; for 5 to 15 the spec says undefined, a free value (log entry 12). -/
def checkLen (a : Nibble) : Nat :=
  match a.toNat with
  | 0 => 0
  | 1 => 1
  | 2 => 2
  | 3 => 2
  | 4 => 4
  | _ => Config.checkLenUnrecognized a

/-- The exact sum of the bytes of a span, each an unsigned value 0 to 255 (40 R113, R114). -/
def byteSum : List Byte → Nat
  | [] => 0
  | b :: bs => b.toNat + byteSum bs

/-- SUM8 (40 R113). -/
def sum8 (span : List Byte) : Nat := byteSum span % 256

/-- SUM16 (40 R114). -/
def sum16 (span : List Byte) : Nat := byteSum span % 65536

/-- CK(a, span) (40 R122): defined for a = 1 and a = 2 only. -/
def ckValue (a : Nibble) (span : List Byte) : Option Nat :=
  match a.toNat with
  | 1 => some (sum8 span)
  | 2 => some (sum16 span)
  | _ => none

/-- CK_FINAL(a) on the accumulator (40 R117). -/
def ckFinalValue (a : Nibble) (acc : Half) : Option Nat :=
  match a.toNat with
  | 1 => some (acc.toNat % 256)
  | 2 => some acc.toNat
  | _ => none

/-- The check value of a check field, most significant byte first (30 R87). -/
def beValue (field : List Byte) : Nat := field.foldl (fun v b => v * 256 + b.toNat) 0

/-- The check field that carries the value `v` in `n` bytes, big-endian (20 R57, 42 R176). -/
def beBytes : Nat → Nat → List Byte
  | 0, _ => []
  | n + 1, v => loByte (v / 256 ^ n) :: beBytes n v

/-- `M[i ..< j]` of a byte sequence (00 R15). -/
def slice (bs : List Byte) (i j : Nat) : List Byte := (bs.drop i).take (j - i)

/-- The sync bytes of a frame: SYNC1, and SYNC2 when NSYNC = 2 (30 R81, R82). -/
def syncBytes (c : Config) : List Byte :=
  match c.nsync with
  | .one => [c.sync1]
  | .two => [c.sync1, c.sync2]

/-- The format byte and length field of a frame of `len` bytes (30 R81, R84, R85). -/
def fmtAndLen (fmt : Byte) (len : Nat) : List Byte := [fmt, hiByte len, loByte len]

/-- packetLen = HEADERLEN + payloadLen + CHECKLEN(a), exact (42 R173, 30 R86). -/
def packetLen (c : Config) (a : Nibble) (p : List Byte) : Nat := c.headerLen + p.length + checkLen a

/-- The check field ENCODE appends (42 R176): the sum over format byte, length bytes and payload. -/
def checkField (a : Nibble) (span : List Byte) : List Byte :=
  match ckValue a span with
  | some v => beBytes (checkLen a) v
  | none => []

/-- The frame ENCODE writes (42 R175, R176): sync bytes, format byte with reserved nibble 0, length, payload, check. -/
def encodedFrame (c : Config) (a : Nibble) (p : List Byte) : List Byte :=
  let span := fmtAndLen (fmtByte a 0) (packetLen c a p) ++ p
  syncBytes c ++ span ++ checkField a span

/-- MAXPAYLOAD(a) (00 R13); none when the difference is negative: "no payload length works". -/
def maxPayload (c : Config) (a : Nibble) : Option Nat :=
  let bound := min c.rxMax c.txCap
  if c.headerLen + checkLen a ≤ bound then some (bound - c.headerLen - checkLen a) else none

end Sys2Proof.Machine
end

