-- ==== Sys2Proof/Machine/Checksum.lean ====
section
/-! DEFINITION. The ChecksumEngine rows: CHECKLEN, CK, CK_INIT, CK_UPDATE, CK_FINAL (40_checksum.md). They write no state but
ACC, which no other operation reads or writes (10 R33). -/

namespace Sys2Proof.Machine

/-- CHECKLEN (40 R110). -/
def execCheckLen (a : Nibble) (s : State) : Result := .next (s.answer (checkLen a))

/-- CK (40 R122): "not defined for any other a and is never called with one". -/
def execCk (a : Nibble) (span : List Byte) (s : State) : Result :=
  match ckValue a span with
  | some v => .next (s.answer v)
  | none => .refused (.checksumNotDefined a)

/-- CK_INIT (40 R117): ACC <- 0. -/
def execCkInit (s : State) : Result := .next { s.quiet with acc := 0 }

/-- CK_UPDATE (40 R117): ACC <- (ACC + b) mod 65536. -/
def execCkUpdate (b : Byte) (s : State) : Result :=
  .next { s.quiet with acc := BitVec.ofNat 16 (s.acc.toNat + b.toNat) }

/-- CK_FINAL (40 R117): a = 1: ACC mod 256; a = 2: ACC. -/
def execCkFinal (a : Nibble) (s : State) : Result :=
  match ckFinalValue a s.acc with
  | some v => .next (s.answer v)
  | none => .refused (.checksumNotDefined a)

end Sys2Proof.Machine
end

