-- ==== Sys2Proof/Machine/Control.lean ====
section
/-! DEFINITION. NOP and RESET (30 R95, 70 R230). -/

namespace Sys2Proof.Machine

/-- NOP (30 R95): no operation issued; no state changes and nothing is put out. -/
def execNop (s : State) : Result := .next s.quiet

/-- RESET (70 R230): four registers; RXBUF, TXBUF and the configuration are not written, no DELIVER is emitted. -/
def execReset (s : State) : Result := .next s.toIdle.quiet

end Sys2Proof.Machine
end

