-- ==== Sys2Proof/Machine/Encoder.lean ====
section
/-! DEFINITION. The FrameEncoder: ENCODE and its rows by selector (42_encoder.md). It writes TXBUF and nothing else of the
block (R170). -/

namespace Sys2Proof.Machine

/-- A failing ENCODE (42 R174): TXBUF is unchanged and the result is fail. -/
def encodeFail (c : EncodeCause) (s : State) : Result :=
  .next { s with out := { encResult := some .fail, cause := some c } }

/-- ENCODE(a, p) (42 R172 to R178): the tests in their order, then the frame from index 0 and the result ok(packetLen). -/
def encodeOp (a : Nibble) (p : List Byte) (s : State) : Result :=
  if !supported a then encodeFail .unsupportedAlgorithm s
  else if s.cfg.txCap < packetLen s.cfg a p then encodeFail .outputCapacityExceeded s
  else if s.cfg.protoMax.toNat < packetLen s.cfg a p then encodeFail .protocolMaxExceeded s
  else .next { s with
    txbuf := Memory.writeAll s.txbuf 0 (encodedFrame s.cfg a p)
    out := { encResult := some (.ok (packetLen s.cfg a p)) } }

/-- ENCODE (42 R170). -/
def execEncode (a : Nibble) (p : List Byte) (s : State) : Result := encodeOp a p s

/-- ENCODE.NONE (42 R175). -/
def execEncodeNone (p : List Byte) (s : State) : Result := encodeOp 0 p s

/-- ENCODE.SUM8 (42 R176). -/
def execEncodeSum8 (p : List Byte) (s : State) : Result := encodeOp 1 p s

/-- ENCODE.SUM16 (42 R176). -/
def execEncodeSum16 (p : List Byte) (s : State) : Result := encodeOp 2 p s

/-- ENCODE.UNSUPPORTED_3 (42 R172). -/
def execEncodeUnsupported3 (p : List Byte) (s : State) : Result := encodeOp 3 p s

/-- ENCODE.UNSUPPORTED_4 (42 R172). -/
def execEncodeUnsupported4 (p : List Byte) (s : State) : Result := encodeOp 4 p s

/-- ENCODE.UNSUPPORTED_5 (42 R172). -/
def execEncodeUnsupported5 (p : List Byte) (s : State) : Result := encodeOp 5 p s

/-- ENCODE.UNSUPPORTED_6 (42 R172). -/
def execEncodeUnsupported6 (p : List Byte) (s : State) : Result := encodeOp 6 p s

/-- ENCODE.UNSUPPORTED_7 (42 R172). -/
def execEncodeUnsupported7 (p : List Byte) (s : State) : Result := encodeOp 7 p s

/-- ENCODE.UNSUPPORTED_8 (42 R172). -/
def execEncodeUnsupported8 (p : List Byte) (s : State) : Result := encodeOp 8 p s

/-- ENCODE.UNSUPPORTED_9 (42 R172). -/
def execEncodeUnsupported9 (p : List Byte) (s : State) : Result := encodeOp 9 p s

/-- ENCODE.UNSUPPORTED_10 (42 R172). -/
def execEncodeUnsupported10 (p : List Byte) (s : State) : Result := encodeOp 10 p s

/-- ENCODE.UNSUPPORTED_11 (42 R172). -/
def execEncodeUnsupported11 (p : List Byte) (s : State) : Result := encodeOp 11 p s

/-- ENCODE.UNSUPPORTED_12 (42 R172). -/
def execEncodeUnsupported12 (p : List Byte) (s : State) : Result := encodeOp 12 p s

/-- ENCODE.UNSUPPORTED_13 (42 R172). -/
def execEncodeUnsupported13 (p : List Byte) (s : State) : Result := encodeOp 13 p s

/-- ENCODE.UNSUPPORTED_14 (42 R172). -/
def execEncodeUnsupported14 (p : List Byte) (s : State) : Result := encodeOp 14 p s

/-- ENCODE.UNSUPPORTED_15 (42 R172). -/
def execEncodeUnsupported15 (p : List Byte) (s : State) : Result := encodeOp 15 p s

end Sys2Proof.Machine
end

