-- ==== Sys2Proof/Machine/Decoder.lean ====
section
/-! DEFINITION. The FrameDecoder: SUBMIT, its four arms and its internal operations (41_decoder.md). -/

namespace Sys2Proof.Machine

/-- Is the collected frame good (41 R146, R147)? None is always good; Sum8 and Sum16 compare the computed with the
transmitted check value. `len` is PKTLEN, `cl` CHECKLEN(ALG), `cl <= len`. -/
def validate (s : State) (len cl : Nat) : Except Fault Bool :=
  if s.alg = 0 then .ok true
  else
    match rxSpan s s.cfg.nsync.toNat (len - cl - s.cfg.nsync.toNat) with
    | .error f => .error f
    | .ok span =>
      match rxSpan s (len - cl) cl with
      | .error f => .error f
      | .ok field => .ok (decide (ckValue s.alg span = some (beValue field)))

/-- FRAME_COMPLETE (41 R145): validate, deliver if good, then reset to Idle whatever the result (R148). -/
def frameComplete (s : State) : Result :=
  if !supported s.alg then .refused (.checksumNotDefined s.alg)
  else
    let cl := checkLen s.alg
    if s.pktlen < s.cfg.headerLen + cl then .fault .spanInverted
    else
      match validate s s.pktlen cl with
      | .error f => .fault f
      | .ok false => .next (s.reject .checksumMismatch)
      | .ok true =>
        match rxSpan s s.cfg.headerLen (s.pktlen - cl - s.cfg.headerLen) with
        | .error f => .fault f
        | .ok p => .next (s.deliver p).toIdle

/-- The tests, the latch and the same-step completion of HEADER_CHECK (41 R141, R143, R144), on the format byte `f` and the
length bytes `h` and `l`. -/
def acceptHeader (f h l : Byte) (s : State) : Result :=
  let a := hiNibble f
  let len := be16 h l
  if !supported a then .next (s.reject .invalidAlgorithm)
  else if len < s.cfg.headerLen + checkLen a ∨ s.cfg.rxMax < len then .next (s.reject .lengthOutOfBounds)
  else
    let t := { s with alg := a, pktlen := len }
    if t.count = t.pktlen then frameComplete t
    else .next ({ t with state := .bodyPending }.emit .hdrOk)

/-- HEADER_CHECK (41 R140): parse the header from RXBUF. -/
def headerCheck (s : State) : Result :=
  let n := s.cfg.nsync.toNat
  match rxRead s n with
  | .error f => .fault f
  | .ok f =>
    match rxRead s (n + 1) with
    | .error e => .fault e
    | .ok h =>
      match rxRead s (n + 2) with
      | .error e => .fault e
      | .ok l => acceptHeader f h l s

/-- SUBMIT in Idle (41 R133). -/
def idleArm (b : Byte) (s : State) : Result :=
  if b ≠ s.cfg.sync1 then .next (s.emit .discard)
  else push b (fun t =>
    match t.cfg.nsync with
    | .two => .next ({ t with state := .syncPartial }.emit .sync1)
    | .one => .next ({ t with state := .headerPending }.emit .sync1)) s

/-- SUBMIT in SyncPartial (41 R134): strict equality, tested before the capacity (60 R205). -/
def syncPartialArm (b : Byte) (s : State) : Result :=
  if b ≠ s.cfg.sync2 then .next (s.reject .invalidSync)
  else push b (fun t => .next ({ t with state := .headerPending }.emit .sync2)) s

/-- SUBMIT in HeaderPending (41 R135). -/
def headerArm (b : Byte) (s : State) : Result :=
  push b (fun t => if t.count < t.cfg.headerLen then .next (t.emit .hdr) else headerCheck t) s

/-- SUBMIT in BodyPending (41 R136). -/
def bodyArm (b : Byte) (s : State) : Result :=
  push b (fun t => if t.count < t.pktlen then .next (t.emit .body) else frameComplete t) s

/-- SUBMIT(b) (41 R130, R131): the arm is chosen by STATE. -/
def submitByte (b : Byte) (s : State) : Result :=
  match s.state with
  | .idle => idleArm b s
  | .syncPartial => syncPartialArm b s
  | .headerPending => headerArm b s
  | .bodyPending => bodyArm b s

/-- SUBMIT of the bytes of a stream, in order (30 R97, BYTES). -/
def submitAll : List Byte → State → Result
  | [], s => .next s
  | b :: bs, s => andThen (submitByte b s) (submitAll bs)

/-- SUBMIT (41 R130). -/
def execSubmit (b : Byte) (s : State) : Result := submitByte b s

/-- SUBMIT.IDLE (41 R133): runs when STATE = Idle; another STATE selects another arm (R131). -/
def execSubmitIdle (b : Byte) (s : State) : Result :=
  if s.state = .idle then idleArm b s else .refused .armNotSelected

/-- SUBMIT.SYNCPARTIAL (41 R134). -/
def execSubmitSyncPartial (b : Byte) (s : State) : Result :=
  if s.state = .syncPartial then syncPartialArm b s else .refused .armNotSelected

/-- SUBMIT.HEADER (41 R135). -/
def execSubmitHeader (b : Byte) (s : State) : Result :=
  if s.state = .headerPending then headerArm b s else .refused .armNotSelected

/-- SUBMIT.BODY (41 R136). -/
def execSubmitBody (b : Byte) (s : State) : Result :=
  if s.state = .bodyPending then bodyArm b s else .refused .armNotSelected

/-- PUSH (41 R132): a rejection ends with its event; a stored byte has no event of its own. -/
def execPush (b : Byte) (s : State) : Result := push b (fun t => .next t.quiet) s

/-- HEADER_CHECK (41 R140). Run alone with another COUNT than HEADERLEN: log entry 21. -/
def execHeaderCheck (s : State) : Result := headerCheck s

/-- FRAME_COMPLETE (41 R145). Run alone with another COUNT than PKTLEN: log entry 21. -/
def execFrameComplete (s : State) : Result := frameComplete s

/-- DELIVER (41 R150). -/
def execDeliver (p : List Byte) (s : State) : Result := .next (s.deliver p)

/-- RESET_TO_IDLE (60 R200). -/
def execResetToIdle (s : State) : Result := .next s.toIdle.quiet

end Sys2Proof.Machine
end

