-- ==== Sys2Proof/Machine/Format.lean ====
section
/-! DEFINITION. The wire: the format byte rows and the frame rows (30_encoding.md). A format byte acts when it is submitted
(30 R95, 41 R135): after the sync bytes it is stored, and HEADER_CHECK reads it back (log entry 8). A frame is the SUBMIT of its
bytes in order (30 R97; log entry 9). -/

namespace Sys2Proof.Machine

/-- FMT.NONE (R112). -/
def execFmtNone (r : Nibble) (s : State) : Result := submitByte (fmtByte 0 r) s

/-- FMT.SUM8 (R113). -/
def execFmtSum8 (r : Nibble) (s : State) : Result := submitByte (fmtByte 1 r) s

/-- FMT.SUM16 (R114). -/
def execFmtSum16 (r : Nibble) (s : State) : Result := submitByte (fmtByte 2 r) s

/-- FMT.CRC16 (R115). -/
def execFmtCrc16 (r : Nibble) (s : State) : Result := submitByte (fmtByte 3 r) s

/-- FMT.CRC32 (R116). -/
def execFmtCrc32 (r : Nibble) (s : State) : Result := submitByte (fmtByte 4 r) s

/-- FMT.UNRECOGNIZED_5 (R141). -/
def execFmtUnrecognized5 (r : Nibble) (s : State) : Result := submitByte (fmtByte 5 r) s

/-- FMT.UNRECOGNIZED_6 (R141). -/
def execFmtUnrecognized6 (r : Nibble) (s : State) : Result := submitByte (fmtByte 6 r) s

/-- FMT.UNRECOGNIZED_7 (R141). -/
def execFmtUnrecognized7 (r : Nibble) (s : State) : Result := submitByte (fmtByte 7 r) s

/-- FMT.UNRECOGNIZED_8 (R141). -/
def execFmtUnrecognized8 (r : Nibble) (s : State) : Result := submitByte (fmtByte 8 r) s

/-- FMT.UNRECOGNIZED_9 (R141). -/
def execFmtUnrecognized9 (r : Nibble) (s : State) : Result := submitByte (fmtByte 9 r) s

/-- FMT.UNRECOGNIZED_10 (R141). -/
def execFmtUnrecognized10 (r : Nibble) (s : State) : Result := submitByte (fmtByte 10 r) s

/-- FMT.UNRECOGNIZED_11 (R141). -/
def execFmtUnrecognized11 (r : Nibble) (s : State) : Result := submitByte (fmtByte 11 r) s

/-- FMT.UNRECOGNIZED_12 (R141). -/
def execFmtUnrecognized12 (r : Nibble) (s : State) : Result := submitByte (fmtByte 12 r) s

/-- FMT.UNRECOGNIZED_13 (R141). -/
def execFmtUnrecognized13 (r : Nibble) (s : State) : Result := submitByte (fmtByte 13 r) s

/-- FMT.UNRECOGNIZED_14 (R141). -/
def execFmtUnrecognized14 (r : Nibble) (s : State) : Result := submitByte (fmtByte 14 r) s

/-- FMT.UNRECOGNIZED_15 (R141). -/
def execFmtUnrecognized15 (r : Nibble) (s : State) : Result := submitByte (fmtByte 15 r) s

/-- FRAME.F2 (30 R81): SYNC1, SYNC2, format byte, length field, payload and check. -/
def execFrameF2 (fmt : Byte) (body : List Byte) (s : State) : Result :=
  submitAll ([s.cfg.sync1, s.cfg.sync2] ++ fmtAndLen fmt (5 + body.length) ++ body) s

/-- FRAME.F1 (30 R82): "format F2 with the sync2 byte removed". -/
def execFrameF1 (fmt : Byte) (body : List Byte) (s : State) : Result :=
  submitAll ([s.cfg.sync1] ++ fmtAndLen fmt (4 + body.length) ++ body) s

end Sys2Proof.Machine
end

