-- ==== Sys2Proof/Machine/Dispatch.lean ====
section
/-! DEFINITION. One arm for each row of the opcode table. -/

namespace Sys2Proof.Machine

def exec (i : Instr) (s : State) : Host.Outcome State Fault Refusal :=
  match i with
  | .nop => Sys2Proof.Machine.execNop s
  | .submit b => Sys2Proof.Machine.execSubmit b s
  | .encode a p => Sys2Proof.Machine.execEncode a p s
  | .reset => Sys2Proof.Machine.execReset s
  | .submitIdle b => Sys2Proof.Machine.execSubmitIdle b s
  | .submitSyncPartial b => Sys2Proof.Machine.execSubmitSyncPartial b s
  | .submitHeader b => Sys2Proof.Machine.execSubmitHeader b s
  | .submitBody b => Sys2Proof.Machine.execSubmitBody b s
  | .fmtNone r => Sys2Proof.Machine.execFmtNone r s
  | .fmtSum8 r => Sys2Proof.Machine.execFmtSum8 r s
  | .fmtSum16 r => Sys2Proof.Machine.execFmtSum16 r s
  | .fmtCrc16 r => Sys2Proof.Machine.execFmtCrc16 r s
  | .fmtCrc32 r => Sys2Proof.Machine.execFmtCrc32 r s
  | .fmtUnrecognized5 r => Sys2Proof.Machine.execFmtUnrecognized5 r s
  | .fmtUnrecognized6 r => Sys2Proof.Machine.execFmtUnrecognized6 r s
  | .fmtUnrecognized7 r => Sys2Proof.Machine.execFmtUnrecognized7 r s
  | .fmtUnrecognized8 r => Sys2Proof.Machine.execFmtUnrecognized8 r s
  | .fmtUnrecognized9 r => Sys2Proof.Machine.execFmtUnrecognized9 r s
  | .fmtUnrecognized10 r => Sys2Proof.Machine.execFmtUnrecognized10 r s
  | .fmtUnrecognized11 r => Sys2Proof.Machine.execFmtUnrecognized11 r s
  | .fmtUnrecognized12 r => Sys2Proof.Machine.execFmtUnrecognized12 r s
  | .fmtUnrecognized13 r => Sys2Proof.Machine.execFmtUnrecognized13 r s
  | .fmtUnrecognized14 r => Sys2Proof.Machine.execFmtUnrecognized14 r s
  | .fmtUnrecognized15 r => Sys2Proof.Machine.execFmtUnrecognized15 r s
  | .encodeNone p => Sys2Proof.Machine.execEncodeNone p s
  | .encodeSum8 p => Sys2Proof.Machine.execEncodeSum8 p s
  | .encodeSum16 p => Sys2Proof.Machine.execEncodeSum16 p s
  | .encodeUnsupported3 p => Sys2Proof.Machine.execEncodeUnsupported3 p s
  | .encodeUnsupported4 p => Sys2Proof.Machine.execEncodeUnsupported4 p s
  | .encodeUnsupported5 p => Sys2Proof.Machine.execEncodeUnsupported5 p s
  | .encodeUnsupported6 p => Sys2Proof.Machine.execEncodeUnsupported6 p s
  | .encodeUnsupported7 p => Sys2Proof.Machine.execEncodeUnsupported7 p s
  | .encodeUnsupported8 p => Sys2Proof.Machine.execEncodeUnsupported8 p s
  | .encodeUnsupported9 p => Sys2Proof.Machine.execEncodeUnsupported9 p s
  | .encodeUnsupported10 p => Sys2Proof.Machine.execEncodeUnsupported10 p s
  | .encodeUnsupported11 p => Sys2Proof.Machine.execEncodeUnsupported11 p s
  | .encodeUnsupported12 p => Sys2Proof.Machine.execEncodeUnsupported12 p s
  | .encodeUnsupported13 p => Sys2Proof.Machine.execEncodeUnsupported13 p s
  | .encodeUnsupported14 p => Sys2Proof.Machine.execEncodeUnsupported14 p s
  | .encodeUnsupported15 p => Sys2Proof.Machine.execEncodeUnsupported15 p s
  | .frameF2 fmt body => Sys2Proof.Machine.execFrameF2 fmt body s
  | .frameF1 fmt body => Sys2Proof.Machine.execFrameF1 fmt body s
  | .push b => Sys2Proof.Machine.execPush b s
  | .headerCheck => Sys2Proof.Machine.execHeaderCheck s
  | .frameComplete => Sys2Proof.Machine.execFrameComplete s
  | .deliver p => Sys2Proof.Machine.execDeliver p s
  | .resetToIdle => Sys2Proof.Machine.execResetToIdle s
  | .checkLen a => Sys2Proof.Machine.execCheckLen a s
  | .ck a span => Sys2Proof.Machine.execCk a span s
  | .ckInit => Sys2Proof.Machine.execCkInit s
  | .ckUpdate b => Sys2Proof.Machine.execCkUpdate b s
  | .ckFinal a => Sys2Proof.Machine.execCkFinal a s

end Sys2Proof.Machine
end

