-- ==== Sys2Proof/Machine/Step.lean ====
section
/-! DEFINITION. One step of the machine: the next operation the environment issues (00 R17). The block fetches no
instructions (20 R70); the command stream stands for the environment (log entry 4). -/

namespace Sys2Proof.Machine

/-- One operation. An empty stream is "no operation issued", which is NOP (30 R95). Bytes that are no command are refused. -/
def step (s : State) : Host.Outcome State Fault Refusal :=
  match s.cmds with
  | [] => exec .nop s
  | c :: cs =>
    match decode (c :: cs) with
    | .ok (i, rest) => exec i { s with cmds := rest }
    | .error e => .refused (.illegalCommand e)

/-- The environment issues the operation of one table word next (and, if it is one, nothing after it). -/
def State.withFetchWord (s : State) (nbits w : Nat) : State :=
  { s with cmds := commandOfWord nbits w }

end Sys2Proof.Machine
end

