-- ==== Sys2Proof/Safety.lean ====
section
/-! DEFINITION. What counts as a safe state and a well-formed frame, in the terms the statements use: the invariant of
10 R34 with the bounds of 20 R55, and the well-formed frames of 30 R98. -/

namespace Sys2Proof

/-- The INTERNAL rows: "no encoding: invoked by the operations above, never selected directly". -/
def Instr.internal (i : Instr) : Bool := (Sys2Proof.encode i).isNone

/-- The four arms of SUBMIT: selected by STATE, not by whoever issues operations (41 R131). -/
def Instr.arm : Instr → Bool
  | .submitIdle _ => true
  | .submitSyncPartial _ => true
  | .submitHeader _ => true
  | .submitBody _ => true
  | _ => false

/-- What the environment can issue: every row but the INTERNAL ones and the arms. -/
def Instr.issuable (i : Instr) : Bool := !i.internal && !i.arm

/-- The sixteen format byte rows with their algorithm identifiers (30 R89). -/
def fmtRows (r : Nibble) : List (Nibble × Instr) :=
  [(0, .fmtNone r), (1, .fmtSum8 r), (2, .fmtSum16 r), (3, .fmtCrc16 r), (4, .fmtCrc32 r), (5, .fmtUnrecognized5 r),
    (6, .fmtUnrecognized6 r), (7, .fmtUnrecognized7 r), (8, .fmtUnrecognized8 r), (9, .fmtUnrecognized9 r),
    (10, .fmtUnrecognized10 r), (11, .fmtUnrecognized11 r), (12, .fmtUnrecognized12 r), (13, .fmtUnrecognized13 r),
    (14, .fmtUnrecognized14 r), (15, .fmtUnrecognized15 r)]

/-- The sixteen ENCODE_ALG rows with their selectors (42 R172, R175, R176). -/
def encodeRows (p : List Byte) : List (Nibble × Instr) :=
  [(0, .encodeNone p), (1, .encodeSum8 p), (2, .encodeSum16 p), (3, .encodeUnsupported3 p), (4, .encodeUnsupported4 p),
    (5, .encodeUnsupported5 p), (6, .encodeUnsupported6 p), (7, .encodeUnsupported7 p), (8, .encodeUnsupported8 p),
    (9, .encodeUnsupported9 p), (10, .encodeUnsupported10 p), (11, .encodeUnsupported11 p), (12, .encodeUnsupported12 p),
    (13, .encodeUnsupported13 p), (14, .encodeUnsupported14 p), (15, .encodeUnsupported15 p)]

namespace Machine

/-- Run a stream program: the operations in order (00 R19, 30 R96), stopping at the first stop. -/
def execAll : List Instr → State → Result
  | [], s => .next s
  | i :: is, s => andThen (exec i s) (execAll is)

/-- SUBMIT of each byte, in order (30 R97, BYTES). -/
def feed (bs : List Byte) (s : State) : Result := execAll (bs.map .submit) s

/-- The live bytes of RXBUF, `RXBUF[0 ..< COUNT]` (10 R25). -/
def State.liveBytes (s : State) : List Byte := (List.range s.count).map fun i => (Memory.read s.rxbuf i).getD 0

/-- Is a complete frame good (41 R146, R147)? Written over the frame's bytes, apart from the machine's own reading. -/
def goodFrame (c : Config) (f : List Byte) : Bool :=
  let a := hiNibble (f.getD c.nsync.toNat 0)
  let n := f.length
  if a = 0 then true
  else if a = 1 then (((f.take (n - 1)).drop c.nsync.toNat).map BitVec.toNat).sum % 256 = (f.getD (n - 1) 0).toNat
  else (((f.take (n - 2)).drop c.nsync.toNat).map BitVec.toNat).sum % 65536 = be16 (f.getD (n - 2) 0) (f.getD (n - 1) 0)

/-- The transition table of 41 R153, row by row: STATE after, COUNT after, and the event. `f` is the frame collected so far
with the byte `b` stored. -/
def transition (s : State) (b : Byte) : DecoderState × Nat × Event :=
  let c := s.count
  let f := s.liveBytes ++ [b]
  let a := hiNibble (f.getD s.cfg.nsync.toNat 0)
  let len := be16 (f.getD (s.cfg.nsync.toNat + 1) 0) b
  match s.state with
  | .idle =>
    if b ≠ s.cfg.sync1 then (.idle, 0, .discard)                                    -- T1
    else if s.cfg.rxCap < c + 1 then (.idle, 0, .bufferOverflow)                    -- T2
    else if s.cfg.nsync = .two then (.syncPartial, 1, .sync1)                       -- T3
    else (.headerPending, 1, .sync1)                                                -- T4
  | .syncPartial =>
    if b ≠ s.cfg.sync2 then (.idle, 0, .invalidSync)                                -- T5
    else if s.cfg.rxCap < c + 1 then (.idle, 0, .bufferOverflow)                    -- T6
    else (.headerPending, 2, .sync2)                                                -- T7
  | .headerPending =>
    if s.cfg.rxCap < c + 1 then (.idle, 0, .bufferOverflow)                         -- T8
    else if c + 1 < s.cfg.headerLen then (.headerPending, c + 1, .hdr)              -- T9
    else if supported a = false then (.idle, 0, .invalidAlgorithm)                  -- T10
    else if len < s.cfg.headerLen + checkLen a ∨ s.cfg.rxMax < len then (.idle, 0, .lengthOutOfBounds)  -- T11
    else if s.cfg.headerLen < len then (.bodyPending, s.cfg.headerLen, .hdrOk)      -- T12
    else (.idle, 0, .deliver)                                                       -- T13
  | .bodyPending =>
    if s.cfg.rxCap < c + 1 then (.idle, 0, .bufferOverflow)                         -- T14
    else if c + 1 < s.pktlen then (.bodyPending, c + 1, .body)                      -- T15
    else if goodFrame s.cfg f then (.idle, 0, .deliver)                             -- T16
    else (.idle, 0, .checksumMismatch)                                              -- T17

/-- Both buffers in canonical form. -/
def State.MemoryWf (s : State) : Prop := Memory.wf s.rxbuf = true ∧ Memory.wf s.txbuf = true

/-- No byte of RXBUF at RXCAP or above, none of TXBUF at TXCAP or above (20 R55). -/
def State.InBounds (s : State) : Prop :=
  Memory.below s.rxbuf s.cfg.rxCap = true ∧ Memory.below s.txbuf s.cfg.txCap = true

/-- The sync bytes at the start of RXBUF (10 R34). -/
def State.SyncStored (s : State) : Prop :=
  Memory.read s.rxbuf 0 = some s.cfg.sync1 ∧ (s.cfg.nsync = .two → Memory.read s.rxbuf 1 = some s.cfg.sync2)

/-- The header in RXBUF says what ALG and PKTLEN hold (10 R34). -/
def State.HeaderLatched (s : State) : Prop :=
  ∃ f h l, Memory.read s.rxbuf s.cfg.nsync.toNat = some f ∧ Memory.read s.rxbuf (s.cfg.nsync.toNat + 1) = some h ∧
    Memory.read s.rxbuf (s.cfg.nsync.toNat + 2) = some l ∧ hiNibble f = s.alg ∧ be16 h l = s.pktlen

/-- The row of 10 R34 for the value of STATE. -/
def State.Phase (s : State) : Prop :=
  match s.state with
  | .idle => s.count = 0 ∧ s.pktlen = 0 ∧ s.alg = 0
  | .syncPartial =>
    s.cfg.nsync = .two ∧ s.count = 1 ∧ s.pktlen = 0 ∧ s.alg = 0 ∧ Memory.read s.rxbuf 0 = some s.cfg.sync1
  | .headerPending =>
    s.cfg.nsync.toNat ≤ s.count ∧ s.count < s.cfg.headerLen ∧ s.pktlen = 0 ∧ s.alg = 0 ∧ s.SyncStored
  | .bodyPending =>
    s.cfg.headerLen ≤ s.count ∧ s.count < s.pktlen ∧ supported s.alg = true ∧
      s.cfg.headerLen + checkLen s.alg ≤ s.pktlen ∧ s.pktlen ≤ s.cfg.rxMax ∧ s.SyncStored ∧ s.HeaderLatched

/-- The invariant: 10 R34, with the live bytes of RXBUF written (10 R25) and nothing outside the buffers (20 R55). -/
structure State.Inv (s : State) : Prop where
  /-- A legal configuration (00 R11). -/
  config : s.cfg.wf = true
  /-- Canonical buffers. -/
  memory : s.MemoryWf
  /-- Nothing outside the buffers. -/
  bounds : s.InBounds
  /-- "received-byte count never exceeds buffer capacity" (10 R34). -/
  capacity : s.count ≤ s.cfg.rxCap
  /-- Every live byte was written (10 R25). -/
  live : ∀ i, i < s.count → (Memory.read s.rxbuf i).isSome = true
  /-- The registers fit STATE. -/
  phase : s.Phase

/-- A well-formed frame for a configuration (30 R98), clause by clause. -/
structure FrameWf (c : Config) (f : List Byte) : Prop where
  /-- (1) -/
  long : c.headerLen ≤ f.length
  /-- (2) -/
  sync : f.take c.nsync.toNat = syncBytes c
  /-- (3) -/
  alg : supported (hiNibble (f.getD c.nsync.toNat 0)) = true
  /-- (4) -/
  lenField : be16 (f.getD (c.nsync.toNat + 1) 0) (f.getD (c.nsync.toNat + 2) 0) = f.length
  /-- (5) -/
  bounds : c.headerLen + checkLen (hiNibble (f.getD c.nsync.toNat 0)) ≤ f.length ∧ f.length ≤ c.rxMax
  /-- (6) -/
  check : checkLen (hiNibble (f.getD c.nsync.toNat 0)) ≠ 0 →
    ckValue (hiNibble (f.getD c.nsync.toNat 0))
        (slice f c.nsync.toNat (f.length - checkLen (hiNibble (f.getD c.nsync.toNat 0)))) =
      some (beValue (f.drop (f.length - checkLen (hiNibble (f.getD c.nsync.toNat 0)))))

/-- The algorithm of a frame (30 R98). -/
def frameAlg (c : Config) (f : List Byte) : Nibble := hiNibble (f.getD c.nsync.toNat 0)

/-- The payload of a frame (30 R98). -/
def framePayload (c : Config) (f : List Byte) : List Byte :=
  slice f c.headerLen (f.length - checkLen (frameAlg c f))

/-- What an observer of the block sees after an operation (00 R19): the DELIVER payloads and the final decoder state. DESIGN
CHOICE (log entry 20): of the decoder state it takes the four registers; the spec leaves open whether the live bytes of RXBUF
belong to it. -/
def State.observed (s : State) : DecoderState × Nat × Nat × Nibble × List (List Byte) :=
  (s.state, s.count, s.pktlen, s.alg, s.sink)

/-- Equal but for bytes of RXBUF that are dead (10 R32). -/
structure State.SameLive (s t : State) : Prop where
  rest : t = { s with rxbuf := t.rxbuf }
  live : ∀ i, i < s.count → Memory.read t.rxbuf i = Memory.read s.rxbuf i

end Machine

end Sys2Proof
end

