-- ==== Sys2Proof/Certificates/Slice0/Obligations.lean ====
section
/-! DEFINITION. The statements for the provers, about `exec` and `step`, from the numbered rules of spec/. Where a next state is
written as the old one with some fields changed, that ACC is among the unchanged fields is the model's (log entry 3). -/

open Sys2Proof Sys2Proof.Machine

/-! ### Encoding -/

/-- Decoding an encoded well-formed operation gives it back, with the bytes after it. The command encoding is the model's
(log entries 4 and 5); the words in it are the table's. -/
def Obligations.DecodeOfEncodeIsIdentity : Prop :=
  ∀ (i : Instr) (bs rest : List Byte), i.wf = true → Sys2Proof.encode i = some bs → decode (bs ++ rest) = .ok (i, rest)

/-- Whatever the bytes, an operation that decoding answers is well-formed, is none of the INTERNAL rows ("no encoding: invoked
by the operations above, never selected directly"), and leaves a proper suffix of the bytes. -/
def Obligations.DecodeAnswersWellFormedExternalRows : Prop :=
  ∀ (bs : List Byte) (i : Instr) (rest : List Byte), decode bs = .ok (i, rest) →
    i.wf = true ∧ i.internal = false ∧ ∃ used, bs = used ++ rest ∧ 2 ≤ used.length

/-- Words written out from the opcode table: the operation selectors 0 to 3 (30 R95), the STATE codes 0 to 3 (10 R20), the
format bytes (30 R89) and the ENCODE selectors (42 R172). -/
def Obligations.TableWordsDecodeToTheirRows : Prop :=
  decodeTableWord 8 0x00 = some .nop ∧ decodeTableWord 8 0x01 = some (.submit 0) ∧
  decodeTableWord 8 0x02 = some (.encode 0 []) ∧ decodeTableWord 8 0x03 = some .reset ∧
  decode [0x00, 1, 0xA5] = .ok (.submitIdle 0xA5, []) ∧ decode [0x01, 1, 0x5A] = .ok (.submitSyncPartial 0x5A, []) ∧
  decode [0x02, 1, 0x20] = .ok (.submitHeader 0x20, []) ∧ decode [0x03, 1, 0x6F] = .ok (.submitBody 0x6F, []) ∧
  decode [0x07, 2] = .ok (.fmtNone 7, []) ∧ decodeTableWord 8 0x10 = some (.fmtSum8 0) ∧
  decodeTableWord 8 0x27 = some (.fmtSum16 7) ∧ decodeTableWord 8 0x30 = some (.fmtCrc16 0) ∧
  decodeTableWord 8 0xF0 = some (.fmtUnrecognized15 0) ∧
  decode [0x02, 3, 0x00, 0x02, 0x6F, 0x6B] = .ok (.encodeSum16 [0x6F, 0x6B], []) ∧
  decodeTableWord 8 0x0F = some (.encodeUnsupported15 []) ∧
  decode [0x20, 4, 0x00, 0x09, 0x6F, 0x6B, 0x01, 0x03] = .ok (.frameF2 0x20 [0x6F, 0x6B, 0x01, 0x03], []) ∧
  decode [0x20, 5, 0x00, 0x08, 0x6F, 0x6B, 0x01, 0x02] = .ok (.frameF1 0x20 [0x6F, 0x6B, 0x01, 0x02], [])

/-- One step runs the decoded operation on the state with its bytes taken off the command stream. With no command left it is
NOP; bytes that are no command are refused by name (the model's choices, log entries 4 and 6). -/
def Obligations.StepRunsTheDecodedOperation : Prop :=
  (∀ (s : State) (i : Instr) (rest : List Byte), decode s.cmds = .ok (i, rest) → i.wf = true →
    step s = exec i { s with cmds := rest }) ∧
  (∀ s : State, s.cmds = [] → step s = exec .nop s) ∧
  (∀ (s : State) (e : DecodeError), s.cmds ≠ [] → decode s.cmds = .error e → step s = .refused (.illegalCommand e))

/-! ### Reset, NOP, RESET -/

/-- 70 R231, for every configuration: STATE = Idle, COUNT = 0, PKTLEN = 0, ALG = 0, the configuration as built, and the block
does nothing until an operation is issued. -/
def Obligations.PowerOnIsIdleAndWaits : Prop :=
  ∀ c : Config, (State.powerOn c).state = .idle ∧ (State.powerOn c).count = 0 ∧ (State.powerOn c).pktlen = 0 ∧
    (State.powerOn c).alg = 0 ∧ (State.powerOn c).cfg = c ∧ step (State.powerOn c) = .next (State.powerOn c)

/-- The invariant holds at power-on of every legal configuration, and of `State.reset`. -/
def Obligations.PowerOnMeetsInvariant : Prop :=
  (∀ c : Config, c.wf = true → (State.powerOn c).Inv) ∧ State.reset.Inv

/-- 30 R95, NOP: no state changes and nothing is put out. -/
def Obligations.NopChangesNothing : Prop := ∀ s : State, exec .nop s = .next { s with out := {} }

/-- 70 R230: RESET from any state. The rest of State is as before, so RXBUF, TXBUF and the configuration are not written and
no DELIVER is emitted. ACC is left out: it is unspecified after RESET (10 R35; log entry 3). -/
def Obligations.ResetClearsTheFourRegisters : Prop :=
  ∀ s : State, ∃ t, exec .reset s = .next t ∧
    t = { s with state := .idle, count := 0, pktlen := 0, alg := 0, acc := t.acc, out := {} }

/-- 60 R200, and 70 R234: the reset to Idle writes the same four registers with the same values as RESET. -/
def Obligations.ResetToIdleEqualsReset : Prop :=
  ∀ s : State, ∃ t x, exec .resetToIdle s = .next t ∧
    t = { s with state := .idle, count := 0, pktlen := 0, alg := 0, out := {} } ∧
    exec .reset s = .next { t with acc := x }

/-! ### SUBMIT: dispatch and arms -/

/-- 41 R131: the arm is chosen by STATE, exactly one arm runs, and with NSYNC = 1 SyncPartial is never entered. An arm that
STATE does not select is refused (the model's choice, log entry 7). -/
def Obligations.StateSelectsTheSubmitArm : Prop :=
  (∀ (s : State) (b : Byte),
    (s.state = .idle → exec (.submit b) s = exec (.submitIdle b) s) ∧
    (s.state = .syncPartial → exec (.submit b) s = exec (.submitSyncPartial b) s) ∧
    (s.state = .headerPending → exec (.submit b) s = exec (.submitHeader b) s) ∧
    (s.state = .bodyPending → exec (.submit b) s = exec (.submitBody b) s) ∧
    (s.state ≠ .idle → exec (.submitIdle b) s = .refused .armNotSelected) ∧
    (s.state ≠ .syncPartial → exec (.submitSyncPartial b) s = .refused .armNotSelected) ∧
    (s.state ≠ .headerPending → exec (.submitHeader b) s = .refused .armNotSelected) ∧
    (s.state ≠ .bodyPending → exec (.submitBody b) s = .refused .armNotSelected)) ∧
  (∀ (s t : State) (b : Byte), s.cfg.nsync = .one → s.state ≠ .syncPartial → exec (.submit b) s = .next t →
    t.state ≠ .syncPartial)

/-- 41 R133, SUBMIT.IDLE. COUNT = 0 is what Idle means (10 R34). -/
def Obligations.IdleArmHuntsForSync1 : Prop :=
  ∀ (s : State) (b : Byte), s.state = .idle → s.count = 0 →
    (b ≠ s.cfg.sync1 → exec (.submitIdle b) s = .next { s with out := { event := some .discard } }) ∧
    (b = s.cfg.sync1 → 0 < s.cfg.rxCap → s.cfg.nsync = .two → exec (.submitIdle b) s =
      .next { s with rxbuf := Memory.write s.rxbuf 0 b, count := 1, state := .syncPartial,
                     out := { event := some .sync1 } }) ∧
    (b = s.cfg.sync1 → 0 < s.cfg.rxCap → s.cfg.nsync = .one → exec (.submitIdle b) s =
      .next { s with rxbuf := Memory.write s.rxbuf 0 b, count := 1, state := .headerPending,
                     out := { event := some .sync1 } }) ∧
    (b = s.cfg.sync1 → s.cfg.rxCap = 0 → exec (.submitIdle b) s =
      .next { s with pktlen := 0, alg := 0, out := { event := some .bufferOverflow } })

/-- 41 R134, SUBMIT.SYNCPARTIAL: strict equality, tested before the capacity; the mismatching byte is discarded. COUNT = 1 is
what SyncPartial means (10 R34). -/
def Obligations.SyncPartialArmDemandsSync2 : Prop :=
  ∀ (s : State) (b : Byte), s.state = .syncPartial → s.count = 1 →
    (b ≠ s.cfg.sync2 → exec (.submitSyncPartial b) s =
      .next { s with state := .idle, count := 0, pktlen := 0, alg := 0, out := { event := some .invalidSync } }) ∧
    (b = s.cfg.sync2 → 2 ≤ s.cfg.rxCap → exec (.submitSyncPartial b) s =
      .next { s with rxbuf := Memory.write s.rxbuf 1 b, count := 2, state := .headerPending,
                     out := { event := some .sync2 } }) ∧
    (b = s.cfg.sync2 → s.cfg.rxCap ≤ 1 → exec (.submitSyncPartial b) s =
      .next { s with state := .idle, count := 0, pktlen := 0, alg := 0, out := { event := some .bufferOverflow } })

/-- 41 R135, SUBMIT.HEADER: every byte is buffered whatever its value; the one that makes COUNT = HEADERLEN runs HEADER_CHECK.
The last clause: in the invariant no case is missing, and BufferOverflow needs RXCAP < HEADERLEN. -/
def Obligations.HeaderArmCollectsTheHeader : Prop :=
  ∀ (s : State) (b : Byte), s.state = .headerPending →
    (s.cfg.rxCap < s.count + 1 → exec (.submitHeader b) s =
      .next { s with state := .idle, count := 0, pktlen := 0, alg := 0, out := { event := some .bufferOverflow } }) ∧
    (s.count + 1 ≤ s.cfg.rxCap → s.count + 1 < s.cfg.headerLen → exec (.submitHeader b) s =
      .next { s with rxbuf := Memory.write s.rxbuf s.count b, count := s.count + 1, out := { event := some .hdr } }) ∧
    (s.count + 1 ≤ s.cfg.rxCap → s.count + 1 = s.cfg.headerLen → exec (.submitHeader b) s =
      exec .headerCheck { s with rxbuf := Memory.write s.rxbuf s.count b, count := s.cfg.headerLen }) ∧
    (s.Inv → s.count + 1 ≤ s.cfg.headerLen ∧ (s.cfg.headerLen ≤ s.cfg.rxCap → s.count + 1 ≤ s.cfg.rxCap))

/-- 41 R136, SUBMIT.BODY: every byte is buffered whatever its value; the one that makes COUNT = PKTLEN runs FRAME_COMPLETE. The
first clause is the overflow of R132; the last says that in the invariant it cannot happen, nor can COUNT pass PKTLEN. -/
def Obligations.BodyArmCollectsTheBody : Prop :=
  ∀ (s : State) (b : Byte), s.state = .bodyPending →
    (s.cfg.rxCap < s.count + 1 → exec (.submitBody b) s =
      .next { s with state := .idle, count := 0, pktlen := 0, alg := 0, out := { event := some .bufferOverflow } }) ∧
    (s.count + 1 ≤ s.cfg.rxCap → s.count + 1 < s.pktlen → exec (.submitBody b) s =
      .next { s with rxbuf := Memory.write s.rxbuf s.count b, count := s.count + 1, out := { event := some .body } }) ∧
    (s.count + 1 ≤ s.cfg.rxCap → s.count + 1 = s.pktlen → exec (.submitBody b) s =
      exec .frameComplete { s with rxbuf := Memory.write s.rxbuf s.count b, count := s.count + 1 }) ∧
    (s.Inv → s.count + 1 ≤ s.cfg.rxCap ∧ s.count + 1 ≤ s.pktlen)

/-! ### The internal operations of the decoder -/

/-- 41 R132, PUSH: the overflow test before the write, then one byte at index COUNT and no other. That PUSH run by itself puts
out no event when it stores its byte is the model's choice (log entry 10). -/
def Obligations.PushStoresOneByteOrOverflows : Prop :=
  ∀ (s : State) (b : Byte),
    (s.cfg.rxCap < s.count + 1 → exec (.push b) s =
      .next { s with state := .idle, count := 0, pktlen := 0, alg := 0, out := { event := some .bufferOverflow } }) ∧
    (s.count + 1 ≤ s.cfg.rxCap → ∃ t, exec (.push b) s = .next t ∧
      t = { s with rxbuf := t.rxbuf, count := s.count + 1, out := {} } ∧
      ∀ i, Memory.read t.rxbuf i = if i = s.count then some b else Memory.read s.rxbuf i)

/-- 41 R140, R141, R143: HEADER_CHECK, on a whole header (COUNT = HEADERLEN): the algorithm test first, then the length test
with the bound HEADERLEN + CHECKLEN(a) <= L <= min(RXCAP, PROTOMAX), then the latch and the same-step completion (R144). -/
def Obligations.HeaderCheckTestsThenLatches : Prop :=
  ∀ (s : State) (f h l : Byte), s.count = s.cfg.headerLen → s.cfg.headerLen ≤ s.cfg.rxCap →
    Memory.read s.rxbuf s.cfg.nsync.toNat = some f → Memory.read s.rxbuf (s.cfg.nsync.toNat + 1) = some h →
    Memory.read s.rxbuf (s.cfg.nsync.toNat + 2) = some l →
    let a := hiNibble f
    let len := h.toNat * 256 + l.toNat
    let legal := s.cfg.headerLen + checkLen a ≤ len ∧ len ≤ s.cfg.rxCap ∧ len ≤ s.cfg.protoMax.toNat
    (3 ≤ a.toNat → exec .headerCheck s =
      .next { s with state := .idle, count := 0, pktlen := 0, alg := 0, out := { event := some .invalidAlgorithm } }) ∧
    (a.toNat ≤ 2 → ¬legal → exec .headerCheck s =
      .next { s with state := .idle, count := 0, pktlen := 0, alg := 0, out := { event := some .lengthOutOfBounds } }) ∧
    (a.toNat ≤ 2 → legal → s.count ≠ len → exec .headerCheck s =
      .next { s with state := .bodyPending, pktlen := len, alg := a, out := { event := some .hdrOk } }) ∧
    (a.toNat ≤ 2 → legal → s.count = len → exec .headerCheck s =
      exec .frameComplete { s with pktlen := len, alg := a })

/-- 41 R145 to R148: FRAME_COMPLETE, on a whole frame `f` (COUNT = PKTLEN). None is always good; Sum8 and Sum16 compare the sum
of the bytes from the format byte to the end of the payload with the transmitted check value, big-endian; the payload is
delivered only when good; the registers are reset either way. -/
def Obligations.FrameCompleteValidatesDeliversResets : Prop :=
  ∀ (s : State) (f : List Byte), s.count = s.pktlen → f.length = s.pktlen → s.pktlen ≤ s.cfg.rxCap →
    (∀ i, i < s.pktlen → Memory.read s.rxbuf i = f[i]?) → s.alg.toNat ≤ 2 → s.cfg.headerLen + s.alg.toNat ≤ s.pktlen →
    let n := s.pktlen
    let good := s.alg = 0 ∨
      (s.alg = 1 ∧ sum8 (slice f s.cfg.nsync.toNat (n - 1)) = (f.getD (n - 1) 0).toNat) ∨
      (s.alg = 2 ∧ sum16 (slice f s.cfg.nsync.toNat (n - 2)) = be16 (f.getD (n - 2) 0) (f.getD (n - 1) 0))
    let payload := slice f s.cfg.headerLen (n - s.alg.toNat)
    (good → exec .frameComplete s =
      .next { s with state := .idle, count := 0, pktlen := 0, alg := 0, sink := s.sink ++ [payload],
                     out := { deliver := some payload, event := some .deliver } }) ∧
    (¬good → exec .frameComplete s =
      .next { s with state := .idle, count := 0, pktlen := 0, alg := 0, out := { event := some .checksumMismatch } })

/-- 41 R144, the same-step completion: a None header whose length is HEADERLEN delivers an empty payload on its last byte. -/
def Obligations.EmptyNoneFrameCompletesInItsHeader : Prop :=
  ∀ (s : State) (f h b : Byte), s.Inv → s.state = .headerPending → s.count + 1 = s.cfg.headerLen →
    s.cfg.headerLen ≤ s.cfg.rxCap → Memory.read s.rxbuf s.cfg.nsync.toNat = some f → hiNibble f = 0 →
    Memory.read s.rxbuf (s.cfg.nsync.toNat + 1) = some h → be16 h b = s.cfg.headerLen →
    exec (.submitHeader b) s =
      .next { s with rxbuf := Memory.write s.rxbuf s.count b, state := .idle, count := 0, pktlen := 0, alg := 0,
                     sink := s.sink ++ [[]], out := { deliver := some [], event := some .deliver } }

/-- 41 R150, DELIVER: the sink is invoked once with the payload and its length; the ports of 30 R95 show it. -/
def Obligations.DeliverInvokesTheSinkOnce : Prop :=
  ∀ (s : State) (p : List Byte), p.length < 65536 → ∃ t, exec (.deliver p) s = .next t ∧
    t = { s with sink := s.sink ++ [p], out := t.out } ∧ t.out.deliver = some p ∧ t.out.msgValid = true ∧
    t.out.msgLen.toNat = p.length

/-! ### The decoder as a whole -/

/-- 41 R153: every SUBMIT from a state of the invariant takes one row of the transition table: STATE after, COUNT after, the
event and the DELIVER column; T13 delivers the empty payload. -/
def Obligations.SubmitTakesOneRowOfTheTransitionTable : Prop :=
  ∀ (s : State) (b : Byte), s.Inv → ∃ t, exec (.submit b) s = .next t ∧
    t.state = (transition s b).1 ∧ t.count = (transition s b).2.1 ∧ t.out.event = some (transition s b).2.2 ∧
    t.out.deliver.isSome = decide ((transition s b).2.2 = .deliver) ∧
    (s.state = .headerPending → (transition s b).2.2 = .deliver → t.out.deliver = some [])

/-- 41 R152, R150: one SUBMIT emits at most one DELIVER, exactly when its event is EV_DELIVER, and the sink receives it. -/
def Obligations.SubmitDeliversAtMostOnce : Prop :=
  ∀ (s t : State) (b : Byte), exec (.submit b) s = .next t →
    t.sink = s.sink ++ t.out.deliver.toList ∧ (t.out.deliver.isSome = true ↔ t.out.event = some .deliver)

/-- 60 R198, R200, R201: a rejected SUBMIT ends in the reset state, delivers nothing and records nothing; for E1 and E5 the
rejecting byte is stored nowhere. -/
def Obligations.RejectionEndsInTheResetState : Prop :=
  ∀ (s t : State) (b : Byte) (e : Event),
    e ∈ [Event.invalidSync, .invalidAlgorithm, .lengthOutOfBounds, .checksumMismatch, .bufferOverflow] →
    exec (.submit b) s = .next t → t.out.event = some e →
    t = { s with state := .idle, count := 0, pktlen := 0, alg := 0, rxbuf := t.rxbuf, out := { event := some e } } ∧
    (e = .invalidSync ∨ e = .bufferOverflow → t.rxbuf = s.rxbuf) ∧
    (e = .invalidAlgorithm ∨ e = .lengthOutOfBounds ∨ e = .checksumMismatch →
      t.rxbuf = Memory.write s.rxbuf s.count b)

/-- The frame of SUBMIT and its arms (41 R130, 20 R61): TXBUF, the configuration, ACC (log entry 3) and the command stream are as
before, and
so is every byte of RXBUF but the one at COUNT, which is as before or the submitted byte. -/
def Obligations.SubmitWritesOneRxByteAndNoTx : Prop :=
  ∀ (s t : State) (b : Byte) (i : Instr),
    i ∈ [Instr.submit b, .submitIdle b, .submitSyncPartial b, .submitHeader b, .submitBody b] → exec i s = .next t →
    t.txbuf = s.txbuf ∧ t.cfg = s.cfg ∧ t.acc = s.acc ∧ t.cmds = s.cmds ∧
    (∀ j, j ≠ s.count → Memory.read t.rxbuf j = Memory.read s.rxbuf j) ∧
    (Memory.read t.rxbuf s.count = Memory.read s.rxbuf s.count ∨ Memory.read t.rxbuf s.count = some b)

/-- 41 R155: with RXCAP >= HEADERLEN no SUBMIT overflows; in BodyPending none does with any RXCAP; with RXCAP < HEADERLEN
nothing is ever accepted or delivered. -/
def Obligations.OverflowOnlyBelowHeaderLen : Prop :=
  ∀ (s t : State) (b : Byte), s.Inv → exec (.submit b) s = .next t →
    (s.cfg.headerLen ≤ s.cfg.rxCap → t.out.event ≠ some .bufferOverflow) ∧
    (s.state = .bodyPending → t.out.event ≠ some .bufferOverflow) ∧
    (s.cfg.rxCap < s.cfg.headerLen → t.state ≠ .bodyPending ∧ t.out.deliver = none ∧ t.sink = s.sink)

/-- 41 R158: a well-formed frame fed to a decoder in Idle is delivered on its last byte and on no other, and leaves the reset
state. -/
def Obligations.WellFormedFrameIsDelivered : Prop :=
  ∀ (s : State) (f : List Byte), s.Inv → s.state = .idle → FrameWf s.cfg f →
    (∃ t, feed f s = .next t ∧
      t = { s with rxbuf := t.rxbuf, sink := s.sink ++ [framePayload s.cfg f],
                   out := { deliver := some (framePayload s.cfg f), event := some .deliver } }) ∧
    (∀ k, k < f.length → ∃ u, feed (f.take k) s = .next u ∧ u.sink = s.sink ∧ u.Inv)

/-- 41 R158(b), noise resilience: noise bytes other than SYNC1 before and between well-formed frames, and after the last, keep
no frame from being delivered and are never delivered themselves. -/
def Obligations.NoiseBetweenFramesIsHarmless : Prop :=
  ∀ (s : State) (segments : List (List Byte × List Byte)) (tail : List Byte), s.Inv → s.state = .idle →
    (∀ x ∈ segments, (∀ b ∈ x.1, b ≠ s.cfg.sync1) ∧ FrameWf s.cfg x.2) → (∀ b ∈ tail, b ≠ s.cfg.sync1) →
    ∃ t, feed ((segments.map fun x => x.1 ++ x.2).flatten ++ tail) s = .next t ∧ t.state = .idle ∧ t.Inv ∧
      t.sink = s.sink ++ segments.map fun x => framePayload s.cfg x.2

/-- 41 R158(a), the round trip: for a supported algorithm and a payload no longer than MAXPAYLOAD (00 R13), ENCODE succeeds, and
feeding the bytes it wrote delivers exactly the payload. -/
def Obligations.EncodeThenDecodeRoundTrip : Prop :=
  ∀ (s : State) (a : Nibble) (p : List Byte) (m : Nat), s.Inv → s.state = .idle → supported a = true →
    maxPayload s.cfg a = some m → p.length ≤ m →
    ∃ (u t : State) (f : List Byte), exec (.encode a p) s = .next u ∧ u.out.encResult = some (.ok f.length) ∧
      (∀ i, i < f.length → Memory.read u.txbuf i = f[i]?) ∧ feed f u = .next t ∧ t.sink = s.sink ++ [p] ∧
      t.state = .idle ∧ t.out.deliver = some p

/-- 40 R120: flipping one bit of the payload or the check field of a well-formed Sum8 or Sum16 frame yields ChecksumMismatch and
suppresses the sink. -/
def Obligations.SingleBitFlipIsRejected : Prop :=
  ∀ (s : State) (f : List Byte) (j k : Nat) (x : Byte), s.Inv → s.state = .idle → FrameWf s.cfg f →
    frameAlg s.cfg f ≠ 0 → s.cfg.headerLen ≤ j → f[j]? = some x → k < 8 →
    ∃ t, feed (f.set j (x ^^^ ((1 : Byte) <<< k))) s = .next t ∧ t.sink = s.sink ∧
      t.out.event = some .checksumMismatch ∧ t.out.deliver = none ∧ t.state = .idle

/-- 10 R32, 70 R232: no result depends on a dead byte of RXBUF. From any two states that differ in dead bytes only, every
operation, the INTERNAL rows included, ends alike: next states with the same registers, outputs and deliveries that differ in
dead bytes only, or the same stop. No SUBMIT reads a dead byte at all. -/
def Obligations.DeadBytesAreNeverRead : Prop :=
  (∀ (i : Instr) (s s' : State), s.SameLive s' →
    (∀ t, exec i s = .next t →
      ∃ t', exec i s' = .next t' ∧ t.SameLive t' ∧ t'.observed = t.observed ∧ t'.out = t.out) ∧
    (∀ e, exec i s = .fault e → exec i s' = .fault e) ∧ (∀ r, exec i s = .refused r → exec i s' = .refused r)) ∧
  ∀ (s : State) (b : Byte) (k : Nat), exec (.submit b) s ≠ .fault (.rxDead k)

/-! ### The wire -/

/-- The sixteen format byte rows (30 R83, R89, R95): each is the SUBMIT of its byte, `a * 16 + r`; right after the sync bytes it
is stored as the frame's format byte. -/
def Obligations.FormatRowsSubmitTheirByte : Prop :=
  ∀ (s : State) (a r : Nibble) (i : Instr), (a, i) ∈ fmtRows r →
    exec i s = exec (.submit (BitVec.ofNat 8 (a.toNat * 16 + r.toNat))) s ∧
    (s.Inv → ∃ t, exec i s = .next t ∧ t.Inv) ∧
    (s.state = .headerPending → s.count = s.cfg.nsync.toNat → s.count + 1 ≤ s.cfg.rxCap → exec i s =
      .next { s with rxbuf := Memory.write s.rxbuf s.count (BitVec.ofNat 8 (a.toNat * 16 + r.toNat)),
                     count := s.count + 1, out := { event := some .hdr } })

/-- 30 R89, R90, 41 R141: what the format byte decides. After the sync bytes, the format byte with identifier `a` and any
reserved nibble `r`, then the two length bytes: 3 to 15 are rejected as InvalidAlgorithm; 0 to 2 with a legal length beyond the
header are accepted and latched. The reserved nibble plays no part. -/
def Obligations.FormatByteSelectsTheAlgorithm : Prop :=
  ∀ (s : State) (a r : Nibble) (h l : Byte) (i : Instr), (a, i) ∈ fmtRows r → s.Inv → s.state = .headerPending →
    s.count = s.cfg.nsync.toNat → s.cfg.headerLen ≤ s.cfg.rxCap →
    ∃ t, execAll [i, .submit h, .submit l] s = .next t ∧ t.sink = s.sink ++ t.out.deliver.toList ∧
      (3 ≤ a.toNat → t.out.event = some .invalidAlgorithm ∧ t.state = .idle) ∧
      (a.toNat ≤ 2 → s.cfg.headerLen + checkLen a ≤ be16 h l → s.cfg.headerLen < be16 h l → be16 h l ≤ s.cfg.rxMax →
        t.out.event = some .hdrOk ∧ t.state = .bodyPending ∧ t.alg = a ∧ t.pktlen = be16 h l)

/-- 30 R81, R82, R97: a frame row is the SUBMIT of its bytes in order: sync bytes, format byte, length field, body. It completes
from every state of the invariant; SYNC2 is the configuration's (log entry 9). -/
def Obligations.FrameRowsSubmitTheirBytes : Prop :=
  ∀ (s : State) (fmt : Byte) (body : List Byte),
    exec (.frameF2 fmt body) s =
      feed (s.cfg.sync1 :: s.cfg.sync2 :: fmt :: hiByte (5 + body.length) :: loByte (5 + body.length) :: body) s ∧
    exec (.frameF1 fmt body) s =
      feed (s.cfg.sync1 :: fmt :: hiByte (4 + body.length) :: loByte (4 + body.length) :: body) s ∧
    (s.Inv → ∃ t, exec (.frameF2 fmt body) s = .next t ∧ t.Inv) ∧
    (s.Inv → ∃ t, exec (.frameF1 fmt body) s = .next t ∧ t.Inv)

/-- A frame row of the block's own format whose check field fits its bytes is delivered (30 R81, R82, R98, 41 R158): Sum16, two
check bytes that carry the sum of format byte, length bytes and payload, big-endian. -/
def Obligations.Sum16FrameRowDeliversItsPayload : Prop :=
  ∀ (s : State) (r : Nibble) (p : List Byte) (i : Instr), s.Inv → s.state = .idle →
    let len := s.cfg.headerLen + p.length + 2
    let fmt := fmtByte 2 r
    let sum := sum16 (fmt :: hiByte len :: loByte len :: p)
    len ≤ s.cfg.rxMax →
    (s.cfg.nsync = .two ∧ i = .frameF2 fmt (p ++ [hiByte sum, loByte sum])) ∨
      (s.cfg.nsync = .one ∧ i = .frameF1 fmt (p ++ [hiByte sum, loByte sum])) →
    ∃ t, exec i s = .next t ∧
      t = { s with rxbuf := t.rxbuf, sink := s.sink ++ [p], out := { deliver := some p, event := some .deliver } }

/-! ### The checksum engine -/

/-- 40 R110: the check lengths 0/1/2/2/4; for 5 to 15 CHECKLEN answers a value that nothing constrains (log entry 12). -/
def Obligations.CheckLenAnswersTheTable : Prop :=
  ∀ s : State,
    (∀ x ∈ [((0 : Nibble), 0), (1, 1), (2, 2), (3, 2), (4, 4)],
      exec (.checkLen x.1) s = .next { s with out := { value := some x.2 } }) ∧
    (∀ a : Nibble, 5 ≤ a.toNat → ∃ v, exec (.checkLen a) s = .next { s with out := { value := some v } })

/-- 40 R113, R114, R122: CK is the sum of the bytes modulo 256 or 65536, and no other register changes. -/
def Obligations.CkIsTheModularSum : Prop :=
  ∀ (s : State) (span : List Byte),
    exec (.ck 1 span) s = .next { s with out := { value := some ((span.map BitVec.toNat).sum % 256) } } ∧
    exec (.ck 2 span) s = .next { s with out := { value := some ((span.map BitVec.toNat).sum % 65536) } }

/-- The model's choice (log entry 11) where 40 R122 says that CK "is not defined for any other" identifier: CK and CK_FINAL are
refused for it, and for it only. -/
def Obligations.OtherIdentifiersHaveNoChecksum : Prop :=
  ∀ (s : State) (a : Nibble) (span : List Byte),
    (exec (.ck a span) s = .refused (.checksumNotDefined a) ↔ a ≠ 1 ∧ a ≠ 2) ∧
    (exec (.ckFinal a) s = .refused (.checksumNotDefined a) ↔ a ≠ 1 ∧ a ≠ 2)

/-- 40 R117: the three steps of the incremental form, and that CK_INIT, CK_UPDATE of every byte of a span in order and CK_FINAL
answer CK of the span. -/
def Obligations.IncrementalChecksumEqualsSpanChecksum : Prop :=
  ∀ s : State,
    exec .ckInit s = .next { s with acc := 0, out := {} } ∧
    (∀ b : Byte, ∃ t, exec (.ckUpdate b) s = .next t ∧ t = { s with acc := t.acc, out := {} } ∧
      t.acc.toNat = (s.acc.toNat + b.toNat) % 65536) ∧
    exec (.ckFinal 1) s = .next { s with out := { value := some (s.acc.toNat % 256) } } ∧
    exec (.ckFinal 2) s = .next { s with out := { value := some s.acc.toNat } } ∧
    ∀ (a : Nibble) (span : List Byte), a = 1 ∨ a = 2 →
      ∃ t u, execAll (.ckInit :: span.map .ckUpdate ++ [.ckFinal a]) s = .next t ∧ exec (.ck a span) s = .next u ∧
        t.out.value = u.out.value ∧ t = { s with acc := t.acc, out := t.out }

/-- 40 R118: SUM8 is SUM16 modulo 256, for every span. -/
def Obligations.Sum8IsSum16Mod256 : Prop :=
  ∀ (s : State) (span : List Byte), ∃ t u v w, exec (.ck 1 span) s = .next t ∧ exec (.ck 2 span) s = .next u ∧
    t.out.value = some v ∧ u.out.value = some w ∧ v = w % 256

/-- 40 R121: no reordering of the bytes of a span changes its check value. -/
def Obligations.ReorderingIsNotDetected : Prop :=
  ∀ (s : State) (a : Nibble) (span span' : List Byte), span.Perm span' → exec (.ck a span) s = exec (.ck a span') s

/-! ### The encoder -/

/-- 42 R172, R173, R174, R181: when ENCODE fails, in the order of its tests; the sum is exact; TXBUF and all else are unchanged
and the ports show enc_ok = 0 and enc_pktlen = 0. Holds for ENCODE and for its sixteen rows. -/
def Obligations.EncodeFailsWithoutWriting : Prop :=
  ∀ (s : State) (a : Nibble) (p : List Byte) (i : Instr), i = .encode a p ∨ (a, i) ∈ encodeRows p →
    let len := s.cfg.headerLen + p.length + a.toNat
    let failed := fun c : EncodeCause => Host.Outcome.next (φ := Fault) (ρ := Refusal)
      { s with out := { encResult := some .fail, cause := some c } }
    (3 ≤ a.toNat → exec i s = failed .unsupportedAlgorithm) ∧
    (a.toNat ≤ 2 → s.cfg.txCap < len → exec i s = failed .outputCapacityExceeded) ∧
    (a.toNat ≤ 2 → len ≤ s.cfg.txCap → s.cfg.protoMax.toNat < len → exec i s = failed .protocolMaxExceeded) ∧
    (∀ t, exec i s = .next t → t.out.encResult = some .fail → t.out.encOk = false ∧ t.out.encPktlen = 0)

/-- 42 R175 to R178: a successful ENCODE writes sync bytes, the format byte with a zero reserved nibble, the big-endian length,
the payload and the check field, answers ok(packetLen), and leaves every byte of TXBUF from packetLen on, and all else of State, as
it was. Holds for ENCODE and for ENCODE.NONE, ENCODE.SUM8 and ENCODE.SUM16. -/
def Obligations.EncodeWritesTheFrame : Prop :=
  ∀ (s : State) (a : Nibble) (p : List Byte) (i : Instr), i = .encode a p ∨ (a, i) ∈ encodeRows p → a.toNat ≤ 2 →
    let n := s.cfg.nsync.toNat
    let len := s.cfg.headerLen + p.length + a.toNat
    let fmt : Byte := BitVec.ofNat 8 (a.toNat * 16)
    let span := fmt :: hiByte len :: loByte len :: p
    len ≤ s.cfg.txCap → len ≤ s.cfg.protoMax.toNat →
    ∃ t, exec i s = .next t ∧ t = { s with txbuf := t.txbuf, out := { encResult := some (.ok len) } } ∧
      t.out.encOk = true ∧ t.out.encPktlen.toNat = len ∧
      Memory.read t.txbuf 0 = some s.cfg.sync1 ∧
      (s.cfg.nsync = .two → Memory.read t.txbuf 1 = some s.cfg.sync2) ∧
      Memory.read t.txbuf n = some fmt ∧ Memory.read t.txbuf (n + 1) = some (hiByte len) ∧
      Memory.read t.txbuf (n + 2) = some (loByte len) ∧
      (∀ j, j < p.length → Memory.read t.txbuf (s.cfg.headerLen + j) = p[j]?) ∧
      (a = 1 → Memory.read t.txbuf (len - 1) = some (BitVec.ofNat 8 (sum8 span))) ∧
      (a = 2 → Memory.read t.txbuf (len - 2) = some (hiByte (sum16 span)) ∧
        Memory.read t.txbuf (len - 1) = some (loByte (sum16 span))) ∧
      (∀ j, len ≤ j → Memory.read t.txbuf j = Memory.read s.txbuf j)

/-- 42 R180: the bytes a successful ENCODE wrote are a well-formed frame for every decoder of the same NSYNC, SYNC1, SYNC2 and
PROTOMAX whose own RXCAP has room for them, and its payload is the operand. -/
def Obligations.EncodedFrameIsWellFormed : Prop :=
  ∀ (s t : State) (a : Nibble) (p : List Byte) (len : Nat), exec (.encode a p) s = .next t →
    t.out.encResult = some (.ok len) →
    len = s.cfg.headerLen + p.length + checkLen a ∧ len ≤ s.cfg.txCap ∧ len ≤ s.cfg.protoMax.toNat ∧
    ∃ f : List Byte, f.length = len ∧ (∀ j, j < len → Memory.read t.txbuf j = f[j]?) ∧
      f.getD s.cfg.nsync.toNat 0 = fmtByte a 0 ∧
      ∀ c : Config, c.nsync = s.cfg.nsync → c.sync1 = s.cfg.sync1 → c.sync2 = s.cfg.sync2 →
        c.protoMax = s.cfg.protoMax → len ≤ c.rxCap → FrameWf c f ∧ framePayload c f = p

/-- 20 R67: SUBMIT and ENCODE share no mutable state, so they give the same results in either order. -/
def Obligations.SubmitAndEncodeCommute : Prop :=
  ∀ (s : State) (a : Nibble) (p : List Byte) (b : Byte), s.Inv →
    ∃ u v x y, exec (.submit b) s = .next u ∧ exec (.encode a p) u = .next v ∧
      exec (.encode a p) s = .next x ∧ exec (.submit b) x = .next y ∧
      u.out = y.out ∧ v.out = x.out ∧ { v with out := {} } = { y with out := {} }

/-- 42 R179: no ENCODE reads TXBUF or the decoder: on any two states of one configuration the same operands give the same
result and the same bytes of the frame. -/
def Obligations.EncodeDependsOnItsOperandsOnly : Prop :=
  ∀ (s s' : State) (a : Nibble) (p : List Byte), s.cfg = s'.cfg →
    ∃ t t', exec (.encode a p) s = .next t ∧ exec (.encode a p) s' = .next t' ∧ t.out = t'.out ∧
      ∀ len j, t.out.encResult = some (.ok len) → j < len → Memory.read t.txbuf j = Memory.read t'.txbuf j

/-! ### The machine as a whole -/

/-- 10 R34 with 20 R55: every step keeps the invariant, from every state that meets it. -/
def Obligations.StepKeepsInvariant : Prop := ∀ s t : State, s.Inv → step s = .next t → t.Inv

/-- 20 R55, whatever the registers hold: no operation, the INTERNAL rows included, writes a buffer outside its capacity or out
of canonical form. -/
def Obligations.NoOperationWritesOutOfBounds : Prop :=
  ∀ (i : Instr) (s t : State), s.MemoryWf → s.InBounds → exec i s = .next t → t.MemoryWf ∧ t.InBounds

/-- 10 R27, 70 R237: no operation writes the configuration. -/
def Obligations.ConfigurationNeverChanges : Prop :=
  ∀ (i : Instr) (s t : State), exec i s = .next t → t.cfg = s.cfg

/-- TXBUF "is written by a successful ENCODE only" (10 R26), and an ENCODE "never touches STATE, COUNT, PKTLEN, ALG or RXBUF" (42
R170) and delivers nothing. -/
def Obligations.EncodeAloneWritesTxBuf : Prop :=
  ∀ (i : Instr) (s t : State), exec i s = .next t →
    (t.txbuf ≠ s.txbuf → ∃ a p, i = .encode a p ∨ (a, i) ∈ encodeRows p) ∧
    ((∃ a p, i = .encode a p ∨ (a, i) ∈ encodeRows p) →
      t.sink = s.sink ∧ t.state = s.state ∧ t.count = s.count ∧ t.pktlen = s.pktlen ∧ t.alg = s.alg ∧ t.rxbuf = s.rxbuf)

/-- 10 R29: outputs live for one operation. No operation, the INTERNAL rows included, reads what the last one put out. -/
def Obligations.OutputsAreNeverRead : Prop :=
  ∀ (i : Instr) (s : State) (o : Output), exec i { s with out := o } = exec i s

/-- The model's choice (log entry 3, deduced from what 41 R130, 42 R170 and 70 R230 list as written): no operation but the three
incremental steps reads ACC, and each of them but RESET leaves it as it was. With any other value in ACC the same next state
results but for ACC. RESET leaves ACC free: it is unspecified then (10 R35). -/
def Obligations.OnlyTheIncrementalStepsUseAcc : Prop :=
  ∀ (i : Instr) (s t : State) (x : Half), i ≠ .ckInit → (∀ b, i ≠ .ckUpdate b) → (∀ a, i ≠ .ckFinal a) →
    exec i s = .next t →
    (i ≠ .reset → t.acc = s.acc) ∧ ∃ y, (i ≠ .reset → y = x) ∧ exec i { s with acc := x } = .next { t with acc := y }

/-- 41 R130, 60 R198 and 30 R92: the block never stops. Every stream program of issuable operations runs to its end from every
state of the invariant. -/
def Obligations.StreamProgramsNeverStop : Prop :=
  ∀ (ops : List Instr) (s : State), (∀ i ∈ ops, i.issuable = true) → s.Inv → ∃ t, execAll ops s = .next t ∧ t.Inv

/-! ### The internal rows by themselves -/

/-- The model's choice (log entry 21): HEADER_CHECK run by itself with another COUNT than 41 R140 gives it. With a longer COUNT it
is the same pseudocode; with a shorter one a header byte is dead, no result may depend on it (10 R32), and the row stops. -/
def Obligations.HeaderCheckAloneReadsLiveBytesOnly : Prop :=
  ∀ (s : State) (f h l : Byte), s.cfg.headerLen ≤ s.cfg.rxCap →
    Memory.read s.rxbuf s.cfg.nsync.toNat = some f → Memory.read s.rxbuf (s.cfg.nsync.toNat + 1) = some h →
    Memory.read s.rxbuf (s.cfg.nsync.toNat + 2) = some l →
    let a := hiNibble f
    let len := h.toNat * 256 + l.toNat
    let legal := s.cfg.headerLen + checkLen a ≤ len ∧ len ≤ s.cfg.rxCap ∧ len ≤ s.cfg.protoMax.toNat
    (s.count < s.cfg.headerLen → exec .headerCheck s = .fault (.rxDead (max s.cfg.nsync.toNat s.count))) ∧
    (s.cfg.headerLen < s.count →
      (3 ≤ a.toNat → exec .headerCheck s =
        .next { s with state := .idle, count := 0, pktlen := 0, alg := 0, out := { event := some .invalidAlgorithm } }) ∧
      (a.toNat ≤ 2 → ¬legal → exec .headerCheck s =
        .next { s with state := .idle, count := 0, pktlen := 0, alg := 0, out := { event := some .lengthOutOfBounds } }) ∧
      (a.toNat ≤ 2 → legal → s.count ≠ len → exec .headerCheck s =
        .next { s with state := .bodyPending, pktlen := len, alg := a, out := { event := some .hdrOk } }) ∧
      (a.toNat ≤ 2 → legal → s.count = len → exec .headerCheck s =
        exec .frameComplete { s with pktlen := len, alg := a }))

/-- The model's choice (log entry 21): FRAME_COMPLETE run by itself with another COUNT than 41 R145 gives it. With a longer COUNT it
is the same pseudocode; with a shorter one the first dead byte of the span stops it (10 R32), unless the frame is None and
without payload, for which no byte is read. -/
def Obligations.FrameCompleteAloneReadsLiveBytesOnly : Prop :=
  ∀ (s : State) (f : List Byte), f.length = s.pktlen → s.pktlen ≤ s.cfg.rxCap →
    (∀ i, i < s.pktlen → Memory.read s.rxbuf i = f[i]?) → s.alg.toNat ≤ 2 → s.cfg.headerLen + s.alg.toNat ≤ s.pktlen →
    let n := s.pktlen
    let start := if s.alg = 0 then s.cfg.headerLen else s.cfg.nsync.toNat
    let good := s.alg = 0 ∨
      (s.alg = 1 ∧ sum8 (slice f s.cfg.nsync.toNat (n - 1)) = (f.getD (n - 1) 0).toNat) ∨
      (s.alg = 2 ∧ sum16 (slice f s.cfg.nsync.toNat (n - 2)) = be16 (f.getD (n - 2) 0) (f.getD (n - 1) 0))
    let payload := slice f s.cfg.headerLen (n - s.alg.toNat)
    (s.count < n → start < n → exec .frameComplete s = .fault (.rxDead (max start s.count))) ∧
    (n < s.count ∨ start = n →
      (good → exec .frameComplete s =
        .next { s with state := .idle, count := 0, pktlen := 0, alg := 0, sink := s.sink ++ [payload],
                       out := { deliver := some payload, event := some .deliver } }) ∧
      (¬good → exec .frameComplete s =
        .next { s with state := .idle, count := 0, pktlen := 0, alg := 0, out := { event := some .checksumMismatch } }))
end

