-- ==== Sys2Proof/Laws/Decode.lean ====
section
/-! SUPPORT. The small laws of the encodings: fields of a format byte, a length and its two bytes, taking operands. -/

namespace Sys2Proof

@[simp] theorem hiNibble_fmtByte (a r : Nibble) : hiNibble (fmtByte a r) = a := by
  revert a r; decide

@[simp] theorem loNibble_fmtByte (a r : Nibble) : loNibble (fmtByte a r) = r := by
  revert a r; decide

/-- A format byte is its two nibbles. -/
theorem fmtByte_nibbles (b : Byte) : fmtByte (hiNibble b) (loNibble b) = b := by
  revert b; decide

/-- The value of a format byte: `a * 16 + r` (30 R85). -/
theorem toNat_fmtByte (a r : Nibble) : (fmtByte a r).toNat = a.toNat * 16 + r.toNat := by
  revert a r; decide

/-- The two bytes of a 16-bit length give it back (30 R84). -/
theorem be16_hiByte_loByte {n : Nat} (h : n < 65536) : be16 (hiByte n) (loByte n) = n := by
  simp only [be16, hiByte, loByte, BitVec.toNat_ofNat]
  omega

/-- A length field is at most 65535 (30 R84). -/
theorem be16_lt (h l : Byte) : be16 h l < 65536 := by
  have := h.isLt
  have := l.isLt
  simp only [be16]
  omega

theorem takeBytes_append (p rest : List Byte) (k : List Byte → List Byte → Decoded) :
    takeBytes p.length (p ++ rest) k = k p rest := by
  simp [takeBytes]

theorem takeLen_bytes {n : Nat} (h : n < 65536) (rest : List Byte) (k : Nat → List Byte → Decoded) :
    takeLen (hiByte n :: loByte n :: rest) k = k n rest := by
  simp [takeLen, be16_hiByte_loByte h]

/-- A payload is read back whole. -/
theorem takePayload_bytes {p : List Byte} (h : p.length < 65536) (rest : List Byte)
    (k : List Byte → List Byte → Decoded) : takePayload (payloadBytes p ++ rest) k = k p rest := by
  simp only [takePayload, payloadBytes, List.cons_append]
  rw [takeLen_bytes h, takeBytes_append]

end Sys2Proof
end

