-- ==== Sys2Proof/Laws/State.lean ====
section
/-! SUPPORT. What each named update leaves in each field of State, by rfl. -/

namespace Sys2Proof.Machine

variable (s : State)

@[simp] theorem State.quiet_cfg : (s.quiet).cfg = s.cfg := rfl
@[simp] theorem State.quiet_state : (s.quiet).state = s.state := rfl
@[simp] theorem State.quiet_count : (s.quiet).count = s.count := rfl
@[simp] theorem State.quiet_pktlen : (s.quiet).pktlen = s.pktlen := rfl
@[simp] theorem State.quiet_alg : (s.quiet).alg = s.alg := rfl
@[simp] theorem State.quiet_rxbuf : (s.quiet).rxbuf = s.rxbuf := rfl
@[simp] theorem State.quiet_txbuf : (s.quiet).txbuf = s.txbuf := rfl
@[simp] theorem State.quiet_acc : (s.quiet).acc = s.acc := rfl
@[simp] theorem State.quiet_out : (s.quiet).out = {} := rfl
@[simp] theorem State.quiet_sink : (s.quiet).sink = s.sink := rfl
@[simp] theorem State.quiet_cmds : (s.quiet).cmds = s.cmds := rfl

@[simp] theorem State.emit_cfg (e : Event) : (s.emit e).cfg = s.cfg := rfl
@[simp] theorem State.emit_state (e : Event) : (s.emit e).state = s.state := rfl
@[simp] theorem State.emit_count (e : Event) : (s.emit e).count = s.count := rfl
@[simp] theorem State.emit_pktlen (e : Event) : (s.emit e).pktlen = s.pktlen := rfl
@[simp] theorem State.emit_alg (e : Event) : (s.emit e).alg = s.alg := rfl
@[simp] theorem State.emit_rxbuf (e : Event) : (s.emit e).rxbuf = s.rxbuf := rfl
@[simp] theorem State.emit_txbuf (e : Event) : (s.emit e).txbuf = s.txbuf := rfl
@[simp] theorem State.emit_acc (e : Event) : (s.emit e).acc = s.acc := rfl
@[simp] theorem State.emit_out (e : Event) : (s.emit e).out = { event := some e } := rfl
@[simp] theorem State.emit_sink (e : Event) : (s.emit e).sink = s.sink := rfl
@[simp] theorem State.emit_cmds (e : Event) : (s.emit e).cmds = s.cmds := rfl

@[simp] theorem State.answer_cfg (v : Nat) : (s.answer v).cfg = s.cfg := rfl
@[simp] theorem State.answer_state (v : Nat) : (s.answer v).state = s.state := rfl
@[simp] theorem State.answer_count (v : Nat) : (s.answer v).count = s.count := rfl
@[simp] theorem State.answer_pktlen (v : Nat) : (s.answer v).pktlen = s.pktlen := rfl
@[simp] theorem State.answer_alg (v : Nat) : (s.answer v).alg = s.alg := rfl
@[simp] theorem State.answer_rxbuf (v : Nat) : (s.answer v).rxbuf = s.rxbuf := rfl
@[simp] theorem State.answer_txbuf (v : Nat) : (s.answer v).txbuf = s.txbuf := rfl
@[simp] theorem State.answer_acc (v : Nat) : (s.answer v).acc = s.acc := rfl
@[simp] theorem State.answer_out (v : Nat) : (s.answer v).out = { value := some v } := rfl
@[simp] theorem State.answer_sink (v : Nat) : (s.answer v).sink = s.sink := rfl
@[simp] theorem State.answer_cmds (v : Nat) : (s.answer v).cmds = s.cmds := rfl

@[simp] theorem State.store_cfg (b : Byte) : (s.store b).cfg = s.cfg := rfl
@[simp] theorem State.store_state (b : Byte) : (s.store b).state = s.state := rfl
@[simp] theorem State.store_count (b : Byte) : (s.store b).count = s.count + 1 := rfl
@[simp] theorem State.store_pktlen (b : Byte) : (s.store b).pktlen = s.pktlen := rfl
@[simp] theorem State.store_alg (b : Byte) : (s.store b).alg = s.alg := rfl
@[simp] theorem State.store_rxbuf (b : Byte) : (s.store b).rxbuf = Memory.write s.rxbuf s.count b := rfl
@[simp] theorem State.store_txbuf (b : Byte) : (s.store b).txbuf = s.txbuf := rfl
@[simp] theorem State.store_acc (b : Byte) : (s.store b).acc = s.acc := rfl
@[simp] theorem State.store_out (b : Byte) : (s.store b).out = s.out := rfl
@[simp] theorem State.store_sink (b : Byte) : (s.store b).sink = s.sink := rfl
@[simp] theorem State.store_cmds (b : Byte) : (s.store b).cmds = s.cmds := rfl

@[simp] theorem State.toIdle_cfg : (s.toIdle).cfg = s.cfg := rfl
@[simp] theorem State.toIdle_state : (s.toIdle).state = .idle := rfl
@[simp] theorem State.toIdle_count : (s.toIdle).count = 0 := rfl
@[simp] theorem State.toIdle_pktlen : (s.toIdle).pktlen = 0 := rfl
@[simp] theorem State.toIdle_alg : (s.toIdle).alg = 0 := rfl
@[simp] theorem State.toIdle_rxbuf : (s.toIdle).rxbuf = s.rxbuf := rfl
@[simp] theorem State.toIdle_txbuf : (s.toIdle).txbuf = s.txbuf := rfl
@[simp] theorem State.toIdle_acc : (s.toIdle).acc = s.acc := rfl
@[simp] theorem State.toIdle_out : (s.toIdle).out = s.out := rfl
@[simp] theorem State.toIdle_sink : (s.toIdle).sink = s.sink := rfl
@[simp] theorem State.toIdle_cmds : (s.toIdle).cmds = s.cmds := rfl

@[simp] theorem State.reject_cfg (e : Event) : (s.reject e).cfg = s.cfg := rfl
@[simp] theorem State.reject_state (e : Event) : (s.reject e).state = .idle := rfl
@[simp] theorem State.reject_count (e : Event) : (s.reject e).count = 0 := rfl
@[simp] theorem State.reject_pktlen (e : Event) : (s.reject e).pktlen = 0 := rfl
@[simp] theorem State.reject_alg (e : Event) : (s.reject e).alg = 0 := rfl
@[simp] theorem State.reject_rxbuf (e : Event) : (s.reject e).rxbuf = s.rxbuf := rfl
@[simp] theorem State.reject_txbuf (e : Event) : (s.reject e).txbuf = s.txbuf := rfl
@[simp] theorem State.reject_acc (e : Event) : (s.reject e).acc = s.acc := rfl
@[simp] theorem State.reject_out (e : Event) : (s.reject e).out = { event := some e } := rfl
@[simp] theorem State.reject_sink (e : Event) : (s.reject e).sink = s.sink := rfl
@[simp] theorem State.reject_cmds (e : Event) : (s.reject e).cmds = s.cmds := rfl

@[simp] theorem State.deliver_cfg (p : List Byte) : (s.deliver p).cfg = s.cfg := rfl
@[simp] theorem State.deliver_state (p : List Byte) : (s.deliver p).state = s.state := rfl
@[simp] theorem State.deliver_count (p : List Byte) : (s.deliver p).count = s.count := rfl
@[simp] theorem State.deliver_pktlen (p : List Byte) : (s.deliver p).pktlen = s.pktlen := rfl
@[simp] theorem State.deliver_alg (p : List Byte) : (s.deliver p).alg = s.alg := rfl
@[simp] theorem State.deliver_rxbuf (p : List Byte) : (s.deliver p).rxbuf = s.rxbuf := rfl
@[simp] theorem State.deliver_txbuf (p : List Byte) : (s.deliver p).txbuf = s.txbuf := rfl
@[simp] theorem State.deliver_acc (p : List Byte) : (s.deliver p).acc = s.acc := rfl
@[simp] theorem State.deliver_out (p : List Byte) : (s.deliver p).out = { deliver := some p, event := some .deliver } := rfl
@[simp] theorem State.deliver_sink (p : List Byte) : (s.deliver p).sink = s.sink ++ [p] := rfl
@[simp] theorem State.deliver_cmds (p : List Byte) : (s.deliver p).cmds = s.cmds := rfl

end Sys2Proof.Machine
end

