-- ==== Sys2Proof/Laws/Memory.lean ====
section
/-! SUPPORT. The laws of a buffer: read after write, the canonical form and the bounds. -/

namespace Sys2Proof.Machine

@[simp] theorem Memory.read_nil (a : Nat) : Memory.read [] a = none := rfl

theorem Memory.read_cons (x : Nat) (v : Byte) (m : Memory) (a : Nat) :
    Memory.read ((x, v) :: m) a = if x = a then some v else Memory.read m a := rfl

/-- A read after a write: the value written there, the old value anywhere else. -/
theorem Memory.read_write (m : Memory) (a : Nat) (v : Byte) (b : Nat) :
    Memory.read (Memory.write m a v) b = if a = b then some v else Memory.read m b := by
  induction m with
  | nil => rfl
  | cons c m ih =>
    obtain ⟨x, w⟩ := c
    rw [Memory.write]
    split
    · rfl
    · split
      · subst_vars; simp only [Memory.read_cons]; split <;> rfl
      · simp only [Memory.read_cons, ih]
        split
        · subst_vars; rw [if_neg]; assumption
        · rfl

@[simp] theorem Memory.read_write_same (m : Memory) (a : Nat) (v : Byte) :
    Memory.read (Memory.write m a v) a = some v := by simp [Memory.read_write]

theorem Memory.read_write_ne (m : Memory) {a b : Nat} (v : Byte) (h : a ≠ b) :
    Memory.read (Memory.write m a v) b = Memory.read m b := by simp [Memory.read_write, h]

/-- A read after a run of writes: the byte of the run at its place, the old byte anywhere else. -/
theorem Memory.read_writeAll (vs : List Byte) (m : Memory) (a b : Nat) :
    Memory.read (Memory.writeAll m a vs) b =
      if a ≤ b ∧ b < a + vs.length then vs[b - a]? else Memory.read m b := by
  induction vs generalizing m a with
  | nil => simp [Memory.writeAll]
  | cons v vs ih =>
    rw [Memory.writeAll, ih, Memory.read_write]
    by_cases h : a = b
    · subst h; simp
    · by_cases h1 : a + 1 ≤ b ∧ b < a + 1 + vs.length
      · obtain ⟨k, rfl⟩ : ∃ k, b = a + 1 + k := ⟨b - (a + 1), by omega⟩
        simp only [List.length_cons]
        rw [if_pos h1, if_pos (by omega), show a + 1 + k - (a + 1) = k by omega,
          show a + 1 + k - a = k + 1 by omega, List.getElem?_cons_succ]
      · simp only [List.length_cons]
        rw [if_neg h1, if_neg h, if_neg (by omega)]

/-- The canonical form of a list with a first cell. -/
theorem Memory.wf_cons (x : Nat) (v : Byte) (m : Memory) :
    Memory.wf ((x, v) :: m) = true ↔ (∀ c ∈ m, x < c.1) ∧ Memory.wf m = true := by
  simp [Memory.wf]

theorem Memory.mem_write {m : Memory} {a : Nat} {v : Byte} {c : Host.Cell} (h : c ∈ Memory.write m a v) :
    c = (a, v) ∨ c ∈ m := by
  induction m with
  | nil => simpa [Memory.write] using h
  | cons d m ih =>
    obtain ⟨x, w⟩ := d
    rw [Memory.write] at h
    split at h
    · simpa using h
    · split at h
      · simp only [List.mem_cons] at h ⊢; tauto
      · simp only [List.mem_cons] at h ⊢
        rcases h with h | h
        · tauto
        · rcases ih h with h | h <;> tauto

/-- A write keeps the canonical form. -/
theorem Memory.wf_write {m : Memory} (h : Memory.wf m = true) (a : Nat) (v : Byte) :
    Memory.wf (Memory.write m a v) = true := by
  induction m with
  | nil => rfl
  | cons d m ih =>
    obtain ⟨x, w⟩ := d
    have ⟨hx, hm⟩ := (Memory.wf_cons x w m).1 h
    rw [Memory.write]
    split
    · rename_i hlt
      refine (Memory.wf_cons ..).2 ⟨fun c hc => ?_, h⟩
      rcases List.mem_cons.1 hc with rfl | hc
      · exact hlt
      · exact hlt.trans (hx c hc)
    · split
      · subst_vars; exact (Memory.wf_cons ..).2 ⟨hx, hm⟩
      · refine (Memory.wf_cons ..).2 ⟨fun c hc => ?_, ih hm⟩
        rcases Memory.mem_write hc with rfl | hc
        · show x < a; omega
        · exact hx c hc

/-- A run of writes keeps the canonical form. -/
theorem Memory.wf_writeAll (vs : List Byte) {m : Memory} (h : Memory.wf m = true) (a : Nat) :
    Memory.wf (Memory.writeAll m a vs) = true := by
  induction vs generalizing m a with
  | nil => exact h
  | cons v vs ih => exact ih (Memory.wf_write h a v) (a + 1)

theorem Memory.below_iff (m : Memory) (cap : Nat) : Memory.below m cap = true ↔ ∀ c ∈ m, c.1 < cap := by
  simp [Memory.below]

/-- A write below the capacity keeps every index below it. -/
theorem Memory.below_write {m : Memory} {cap : Nat} (h : Memory.below m cap = true) {a : Nat} (v : Byte)
    (ha : a < cap) : Memory.below (Memory.write m a v) cap = true := by
  rw [Memory.below_iff] at *
  intro c hc
  rcases Memory.mem_write hc with rfl | hc
  · exact ha
  · exact h c hc

/-- A run of writes below the capacity keeps every index below it. -/
theorem Memory.below_writeAll (vs : List Byte) {m : Memory} {cap : Nat} (h : Memory.below m cap = true) (a : Nat)
    (ha : a + vs.length ≤ cap) : Memory.below (Memory.writeAll m a vs) cap = true := by
  induction vs generalizing m a with
  | nil => exact h
  | cons v vs ih =>
    simp only [List.length_cons] at ha
    exact ih (Memory.below_write h v (by omega)) (a + 1) (by omega)

/-- Nothing is read at or above the bound. -/
theorem Memory.read_of_below {m : Memory} {cap a : Nat} (h : Memory.below m cap = true) (ha : cap ≤ a) :
    Memory.read m a = none := by
  induction m with
  | nil => rfl
  | cons c m ih =>
    obtain ⟨x, w⟩ := c
    rw [Memory.below_iff] at h ih
    have := h (x, w) List.mem_cons_self
    rw [Memory.read_cons, if_neg (by simp only at this; omega)]
    exact ih fun c hc => h c (List.mem_cons_of_mem _ hc)

/-- Nothing is read below the first listed index. -/
theorem Memory.read_of_forall_lt {m : Memory} {a : Nat} (h : ∀ c ∈ m, a < c.1) : Memory.read m a = none := by
  induction m with
  | nil => rfl
  | cons c m ih =>
    obtain ⟨x, w⟩ := c
    have := h (x, w) List.mem_cons_self
    rw [Memory.read_cons, if_neg (by simp only at this; omega)]
    exact ih fun c hc => h c (List.mem_cons_of_mem _ hc)

/-- Equal memories are equal data: two canonical buffers that read alike everywhere are the same list. -/
theorem Memory.ext_of_wf {m n : Memory} (hm : Memory.wf m = true) (hn : Memory.wf n = true)
    (h : ∀ a, Memory.read m a = Memory.read n a) : m = n := by
  induction m generalizing n with
  | nil =>
    cases n with
    | nil => rfl
    | cons d n => obtain ⟨y, w⟩ := d; have := h y; simp [Memory.read_cons] at this
  | cons c m ih =>
    obtain ⟨x, v⟩ := c
    cases n with
    | nil => have := h x; simp [Memory.read_cons] at this
    | cons d n =>
      obtain ⟨y, w⟩ := d
      obtain ⟨hx, hm'⟩ := (Memory.wf_cons ..).1 hm
      obtain ⟨hy, hn'⟩ := (Memory.wf_cons ..).1 hn
      have hxy : x = y := by
        rcases lt_trichotomy x y with hlt | heq | hlt
        · have := h x
          rw [Memory.read_cons, if_pos rfl, Memory.read_cons, if_neg (by omega),
            Memory.read_of_forall_lt fun c hc => hlt.trans (hy c hc)] at this
          exact absurd this (by simp)
        · exact heq
        · have := h y
          rw [Memory.read_cons, if_neg (by omega), Memory.read_of_forall_lt fun c hc => hlt.trans (hx c hc),
            Memory.read_cons, if_pos rfl] at this
          exact absurd this (by simp)
      subst hxy
      have hv := h x
      rw [Memory.read_cons, if_pos rfl, Memory.read_cons, if_pos rfl] at hv
      obtain rfl : v = w := by simpa using hv
      congr 1
      refine ih hm' hn' fun a => ?_
      by_cases ha : x = a
      · subst ha
        rw [Memory.read_of_forall_lt hx, Memory.read_of_forall_lt hy]
      · have := h a
        rwa [Memory.read_cons, if_neg ha, Memory.read_cons, if_neg ha] at this

end Sys2Proof.Machine
end

