-- ==== Sys2Proof/Laws/Machine.lean ====
section
/-! SUPPORT. For each shared operation, what it can do: when reads and spans succeed and when they stop, and the ends of PUSH, FRAME_COMPLETE,
HEADER_CHECK, the arms of SUBMIT and ENCODE. -/

namespace Sys2Proof.Machine

/-! ### Reads -/

theorem rxRead_ok_iff {s : State} {i : Nat} {b : Byte} :
    rxRead s i = .ok b ↔ i < s.cfg.rxCap ∧ i < s.count ∧ Memory.read s.rxbuf i = some b := by
  unfold rxRead
  split
  · simp; omega
  · split
    · simp; omega
    · cases h : Memory.read s.rxbuf i <;> simp_all

theorem rxRead_ok {s : State} {i : Nat} {b : Byte} (hc : i < s.cfg.rxCap) (hl : i < s.count)
    (h : Memory.read s.rxbuf i = some b) : rxRead s i = .ok b := rxRead_ok_iff.2 ⟨hc, hl, h⟩

/-- A read of a dead byte stops (10 R32). -/
theorem rxRead_dead {s : State} {i : Nat} (hc : i < s.cfg.rxCap) (hl : s.count ≤ i) : rxRead s i = .error (.rxDead i) := by
  rw [rxRead, if_neg (by omega), if_pos hl]

/-- A read of a live byte does not stop for being dead. -/
theorem rxRead_ne_dead {s : State} {i k : Nat} (hl : i < s.count) : rxRead s i ≠ .error (.rxDead k) := by
  unfold rxRead
  split
  · simp
  · rw [if_neg (by omega)]
    split <;> simp

/-- A span is read exactly when all of it lies below RXCAP, is live and was written. -/
theorem rxSpan_ok {s : State} (bs : List Byte) (i n : Nat) (hn : bs.length = n) (hc : i + n ≤ s.cfg.rxCap)
    (hl : i + n ≤ s.count) (h : ∀ k, k < n → Memory.read s.rxbuf (i + k) = bs[k]?) : rxSpan s i n = .ok bs := by
  induction n generalizing bs i with
  | zero => rw [List.length_eq_zero_iff.1 hn]; rfl
  | succ n ih =>
    obtain ⟨b, bs, rfl⟩ : ∃ b bs', bs = b :: bs' := List.exists_cons_of_length_eq_add_one hn
    have h0 : rxRead s i = .ok b := rxRead_ok (by omega) (by omega) (by simpa using h 0 (by omega))
    have hrest : rxSpan s (i + 1) n = .ok bs := by
      refine ih bs (i + 1) (by simpa using hn) (by omega) (by omega) fun k hk => ?_
      have := h (k + 1) (by omega)
      rwa [List.getElem?_cons_succ, show i + (k + 1) = i + 1 + k by omega] at this
    rw [rxSpan, h0]; simp only [hrest]

/-- A span of written bytes that runs past COUNT stops at its first dead byte. -/
theorem rxSpan_dead {s : State} (i n : Nat) (hc : i + n ≤ s.cfg.rxCap) (hd : s.count < i + n) (hn : 0 < n)
    (h : ∀ k, k < i + n → (Memory.read s.rxbuf k).isSome = true) : rxSpan s i n = .error (.rxDead (max i s.count)) := by
  induction n generalizing i with
  | zero => omega
  | succ n ih =>
    rw [rxSpan]
    by_cases hl : s.count ≤ i
    · rw [rxRead_dead (by omega) hl, Nat.max_eq_left hl]
    · obtain ⟨b, hb⟩ := Option.isSome_iff_exists.1 (h i (by omega))
      rw [rxRead_ok (by omega) (by omega) hb]
      simp only
      rw [ih (i + 1) (by omega) (by omega) (by omega) fun k hk => h k (by omega),
        Nat.max_eq_right (by omega), Nat.max_eq_right (by omega)]

/-- A span of live bytes does not stop for a dead one. -/
theorem rxSpan_ne_dead {s : State} {i n k : Nat} (hl : i + n ≤ s.count) : rxSpan s i n ≠ .error (.rxDead k) := by
  induction n generalizing i with
  | zero => simp [rxSpan]
  | succ n ih =>
    rw [rxSpan]
    split
    · rename_i f hf
      intro he
      simp only [Except.error.injEq] at he
      exact rxRead_ne_dead (by omega) (he ▸ hf)
    · split
      · rename_i f hf
        intro he
        simp only [Except.error.injEq] at he
        exact ih (by omega) (he ▸ hf)
      · simp

/-- Equal configuration, equal COUNT and an equal byte where it is live: equal reads. -/
theorem rxRead_congr {s s' : State} {i : Nat} (hc : s.cfg = s'.cfg) (hn : s.count = s'.count)
    (h : i < s.count → Memory.read s.rxbuf i = Memory.read s'.rxbuf i) : rxRead s i = rxRead s' i := by
  rw [rxRead, rxRead, ← hc, ← hn]
  split
  · rfl
  · split
    · rfl
    · rw [h (by omega)]

theorem rxSpan_congr {s s' : State} (i n : Nat) (hc : s.cfg = s'.cfg) (hn : s.count = s'.count)
    (h : ∀ k, k < s.count → Memory.read s.rxbuf k = Memory.read s'.rxbuf k) : rxSpan s i n = rxSpan s' i n := by
  induction n generalizing i with
  | zero => rfl
  | succ n ih => rw [rxSpan, rxSpan, rxRead_congr hc hn (h i), ih (i + 1)]

/-! ### Check lengths and identifiers -/

theorem supported_iff {a : Nibble} : supported a = true ↔ a = 0 ∨ a = 1 ∨ a = 2 := by revert a; decide

theorem checkLen_supported {a : Nibble} (h : supported a = true) : checkLen a = a.toNat := by
  rcases supported_iff.1 h with rfl | rfl | rfl <;> rfl

theorem checkLen_le {a : Nibble} (h : supported a = true) : checkLen a ≤ 2 := by
  rcases supported_iff.1 h with rfl | rfl | rfl <;> decide

theorem supported_zero : supported 0 = true := rfl

theorem headerLen_eq (c : Config) : c.headerLen = c.nsync.toNat + 3 := rfl

theorem nsync_pos (c : Config) : 1 ≤ c.nsync.toNat := by cases c.nsync <;> decide

theorem nsync_le (c : Config) : c.nsync.toNat ≤ 2 := by cases c.nsync <;> decide

theorem rxMax_le_cap (c : Config) : c.rxMax ≤ c.rxCap := Nat.min_le_left ..

theorem rxMax_le_proto (c : Config) : c.rxMax ≤ c.protoMax.toNat := Nat.min_le_right ..

/-! ### Outcomes -/

theorem andThen_next {o : Result} {k : State → Result} {t : State} (h : andThen o k = .next t) :
    ∃ u, o = .next u ∧ k u = .next t := by
  cases o with
  | next u => exact ⟨u, rfl, h⟩
  | fault f => simp [andThen] at h
  | refused r => simp [andThen] at h

@[simp] theorem andThen_of_next (u : State) (k : State → Result) : andThen (.next u) k = k u := rfl

/-! ### PUSH -/

theorem push_overflow {b : Byte} {k : State → Result} {s : State} (h : s.cfg.rxCap < s.count + 1) :
    push b k s = .next (s.reject .bufferOverflow) := if_pos h

theorem push_store {b : Byte} {k : State → Result} {s : State} (h : s.count + 1 ≤ s.cfg.rxCap) :
    push b k s = k (s.store b) := if_neg (by omega)

/-- PUSH ends the step with E5, or goes on with the byte stored below RXCAP. -/
theorem push_next {b : Byte} {k : State → Result} {s t : State} (h : push b k s = .next t) :
    (s.cfg.rxCap < s.count + 1 ∧ t = s.reject .bufferOverflow) ∨
      (s.count + 1 ≤ s.cfg.rxCap ∧ k (s.store b) = .next t) := by
  by_cases hc : s.cfg.rxCap < s.count + 1
  · rw [push_overflow hc] at h
    exact .inl ⟨hc, by simpa using h.symm⟩
  · exact .inr ⟨by omega, by rwa [push_store (by omega)] at h⟩

/-! ### FRAME_COMPLETE, HEADER_CHECK and the arms -/

/-- FRAME_COMPLETE ends with a delivery and the reset to Idle, or with E4. -/
theorem frameComplete_next {s t : State} (h : frameComplete s = .next t) :
    supported s.alg = true ∧ s.cfg.headerLen + checkLen s.alg ≤ s.pktlen ∧
      ((validate s s.pktlen (checkLen s.alg) = .ok false ∧ t = s.reject .checksumMismatch) ∨
        ∃ p, validate s s.pktlen (checkLen s.alg) = .ok true ∧
          rxSpan s s.cfg.headerLen (s.pktlen - checkLen s.alg - s.cfg.headerLen) = .ok p ∧
          t = (s.deliver p).toIdle) := by
  rw [frameComplete] at h
  split at h
  · cases h
  · rename_i hs
    simp only at h
    split at h
    · cases h
    · rename_i hl
      refine ⟨by simpa using hs, by omega, ?_⟩
      split at h
      · cases h
      · rename_i hv
        exact .inl ⟨hv, by simpa using h.symm⟩
      · rename_i hv
        split at h
        · cases h
        · rename_i p hp
          exact .inr ⟨p, hv, hp, by simpa using h.symm⟩

/-- The header tests end with E2, E3, the latch, or the completion of the frame in the same step. -/
theorem acceptHeader_next {f h l : Byte} {s t : State} (hn : acceptHeader f h l s = .next t) :
    (supported (hiNibble f) = false ∧ t = s.reject .invalidAlgorithm) ∨
      (supported (hiNibble f) = true ∧
        (be16 h l < s.cfg.headerLen + checkLen (hiNibble f) ∨ s.cfg.rxMax < be16 h l) ∧
        t = s.reject .lengthOutOfBounds) ∨
      (supported (hiNibble f) = true ∧ s.cfg.headerLen + checkLen (hiNibble f) ≤ be16 h l ∧ be16 h l ≤ s.cfg.rxMax ∧
        ((s.count ≠ be16 h l ∧
            t = { s with alg := hiNibble f, pktlen := be16 h l, state := .bodyPending, out := { event := some .hdrOk } }) ∨
          (s.count = be16 h l ∧ frameComplete { s with alg := hiNibble f, pktlen := be16 h l } = .next t))) := by
  rw [acceptHeader] at hn
  simp only at hn
  split at hn
  · rename_i hs
    exact .inl ⟨by simpa using hs, by simpa using hn.symm⟩
  · rename_i hs
    split at hn
    · rename_i hb
      exact .inr (.inl ⟨by simpa using hs, hb, by simpa using hn.symm⟩)
    · rename_i hb
      refine .inr (.inr ⟨by simpa using hs, by omega, by omega, ?_⟩)
      split at hn
      · exact .inr ⟨by assumption, hn⟩
      · exact .inl ⟨by assumption, by simpa [State.emit] using hn.symm⟩

/-- The algorithm test comes first (60 R205). -/
theorem acceptHeader_unsupported {f h l : Byte} {s : State} (hs : supported (hiNibble f) = false) :
    acceptHeader f h l s = .next (s.reject .invalidAlgorithm) := by simp [acceptHeader, hs]

/-- The length test. -/
theorem acceptHeader_badLength {f h l : Byte} {s : State} (hs : supported (hiNibble f) = true)
    (hb : be16 h l < s.cfg.headerLen + checkLen (hiNibble f) ∨ s.cfg.rxMax < be16 h l) :
    acceptHeader f h l s = .next (s.reject .lengthOutOfBounds) := by simp [acceptHeader, hs, hb]

/-- An accepted header with more bytes to come. -/
theorem acceptHeader_latch {f h l : Byte} {s : State} (hs : supported (hiNibble f) = true)
    (hlo : s.cfg.headerLen + checkLen (hiNibble f) ≤ be16 h l) (hhi : be16 h l ≤ s.cfg.rxMax) (hc : s.count ≠ be16 h l) :
    acceptHeader f h l s =
      .next { s with alg := hiNibble f, pktlen := be16 h l, state := .bodyPending, out := { event := some .hdrOk } } := by
  have hb : ¬(be16 h l < s.cfg.headerLen + checkLen (hiNibble f) ∨ s.cfg.rxMax < be16 h l) := by omega
  simp [acceptHeader, hs, hb, hc, State.emit]

/-- An accepted header that is the whole frame. -/
theorem acceptHeader_complete {f h l : Byte} {s : State} (hs : supported (hiNibble f) = true)
    (hlo : s.cfg.headerLen + checkLen (hiNibble f) ≤ be16 h l) (hhi : be16 h l ≤ s.cfg.rxMax) (hc : s.count = be16 h l) :
    acceptHeader f h l s = frameComplete { s with alg := hiNibble f, pktlen := be16 h l } := by
  have hb : ¬(be16 h l < s.cfg.headerLen + checkLen (hiNibble f) ∨ s.cfg.rxMax < be16 h l) := by omega
  simp only [acceptHeader]
  rw [if_neg (by simp [hs]), if_neg hb, if_pos hc]

/-- HEADER_CHECK reads the three header bytes and ends as the header tests do. -/
theorem headerCheck_next {s t : State} (hn : headerCheck s = .next t) :
    ∃ f h l, Memory.read s.rxbuf s.cfg.nsync.toNat = some f ∧ Memory.read s.rxbuf (s.cfg.nsync.toNat + 1) = some h ∧
      Memory.read s.rxbuf (s.cfg.nsync.toNat + 2) = some l ∧ acceptHeader f h l s = .next t := by
  rw [headerCheck] at hn
  simp only at hn
  split at hn
  · cases hn
  · rename_i f hf
    split at hn
    · cases hn
    · rename_i h hh
      split at hn
      · cases hn
      · rename_i l hl
        exact ⟨f, h, l, (rxRead_ok_iff.1 hf).2.2, (rxRead_ok_iff.1 hh).2.2, (rxRead_ok_iff.1 hl).2.2, hn⟩

theorem headerCheck_of_reads {s : State} {f h l : Byte} (hc : s.cfg.nsync.toNat + 2 < s.cfg.rxCap)
    (hn : s.cfg.nsync.toNat + 2 < s.count) (hf : Memory.read s.rxbuf s.cfg.nsync.toNat = some f)
    (hh : Memory.read s.rxbuf (s.cfg.nsync.toNat + 1) = some h)
    (hl : Memory.read s.rxbuf (s.cfg.nsync.toNat + 2) = some l) : headerCheck s = acceptHeader f h l s := by
  rw [headerCheck]
  simp only [rxRead_ok (show s.cfg.nsync.toNat < s.cfg.rxCap by omega) (by omega) hf,
    rxRead_ok (show s.cfg.nsync.toNat + 1 < s.cfg.rxCap by omega) (by omega) hh, rxRead_ok hc hn hl]

/-- SUBMIT in Idle: discard, E5, or SYNC1 stored. -/
theorem idleArm_next {b : Byte} {s t : State} (h : idleArm b s = .next t) :
    (b ≠ s.cfg.sync1 ∧ t = s.emit .discard) ∨
      (b = s.cfg.sync1 ∧ s.cfg.rxCap < s.count + 1 ∧ t = s.reject .bufferOverflow) ∨
      (b = s.cfg.sync1 ∧ s.count + 1 ≤ s.cfg.rxCap ∧
        ((s.cfg.nsync = .two ∧ t = { s.store b with state := .syncPartial, out := { event := some .sync1 } }) ∨
          (s.cfg.nsync = .one ∧ t = { s.store b with state := .headerPending, out := { event := some .sync1 } }))) := by
  rw [idleArm] at h
  split at h
  · exact .inl ⟨by assumption, by simpa using h.symm⟩
  · rename_i hb
    rcases push_next h with ⟨hc, rfl⟩ | ⟨hc, h⟩
    · exact .inr (.inl ⟨by simpa using hb, hc, rfl⟩)
    · refine .inr (.inr ⟨by simpa using hb, hc, ?_⟩)
      simp only [State.store_cfg] at h
      split at h
      · exact .inl ⟨by assumption, by simpa [State.emit] using h.symm⟩
      · exact .inr ⟨by assumption, by simpa [State.emit] using h.symm⟩

/-- SUBMIT in SyncPartial: E1, E5, or SYNC2 stored. -/
theorem syncPartialArm_next {b : Byte} {s t : State} (h : syncPartialArm b s = .next t) :
    (b ≠ s.cfg.sync2 ∧ t = s.reject .invalidSync) ∨
      (b = s.cfg.sync2 ∧ s.cfg.rxCap < s.count + 1 ∧ t = s.reject .bufferOverflow) ∨
      (b = s.cfg.sync2 ∧ s.count + 1 ≤ s.cfg.rxCap ∧
        t = { s.store b with state := .headerPending, out := { event := some .sync2 } }) := by
  rw [syncPartialArm] at h
  split at h
  · exact .inl ⟨by assumption, by simpa using h.symm⟩
  · rename_i hb
    rcases push_next h with ⟨hc, rfl⟩ | ⟨hc, h⟩
    · exact .inr (.inl ⟨by simpa using hb, hc, rfl⟩)
    · exact .inr (.inr ⟨by simpa using hb, hc, by simpa [State.emit] using h.symm⟩)

/-- SUBMIT in HeaderPending: E5, a header byte stored, or HEADER_CHECK. -/
theorem headerArm_next {b : Byte} {s t : State} (h : headerArm b s = .next t) :
    (s.cfg.rxCap < s.count + 1 ∧ t = s.reject .bufferOverflow) ∨
      (s.count + 1 ≤ s.cfg.rxCap ∧
        ((s.count + 1 < s.cfg.headerLen ∧ t = (s.store b).emit .hdr) ∨
          (s.cfg.headerLen ≤ s.count + 1 ∧ headerCheck (s.store b) = .next t))) := by
  rcases push_next h with ⟨hc, rfl⟩ | ⟨hc, h⟩
  · exact .inl ⟨hc, rfl⟩
  · refine .inr ⟨hc, ?_⟩
    by_cases hl : s.count + 1 < s.cfg.headerLen
    · exact .inl ⟨hl, by simpa [hl] using h.symm⟩
    · exact .inr ⟨by omega, by simpa [hl] using h⟩

/-- SUBMIT in BodyPending: E5, a body byte stored, or FRAME_COMPLETE. -/
theorem bodyArm_next {b : Byte} {s t : State} (h : bodyArm b s = .next t) :
    (s.cfg.rxCap < s.count + 1 ∧ t = s.reject .bufferOverflow) ∨
      (s.count + 1 ≤ s.cfg.rxCap ∧
        ((s.count + 1 < s.pktlen ∧ t = (s.store b).emit .body) ∨
          (s.pktlen ≤ s.count + 1 ∧ frameComplete (s.store b) = .next t))) := by
  rcases push_next h with ⟨hc, rfl⟩ | ⟨hc, h⟩
  · exact .inl ⟨hc, rfl⟩
  · refine .inr ⟨hc, ?_⟩
    by_cases hl : s.count + 1 < s.pktlen
    · exact .inl ⟨hl, by simpa [hl] using h.symm⟩
    · exact .inr ⟨by omega, by simpa [hl] using h⟩

/-- What one SUBMIT can do to the state: discard; reject without storing; store and go on; store and reject; store, deliver and
return to Idle. -/
inductive SubmitEffect (b : Byte) (s : State) : State → Prop where
  /-- EV_DISCARD. -/
  | discard : SubmitEffect b s (s.emit .discard)
  /-- E1 and E5: the byte is stored nowhere. -/
  | drop (e : Event) : e = .invalidSync ∨ e = .bufferOverflow → SubmitEffect b s (s.reject e)
  /-- The byte is stored and the frame goes on. -/
  | keep (st : DecoderState) (n : Nat) (a : Nibble) (e : Event) : s.count + 1 ≤ s.cfg.rxCap →
      e = .sync1 ∨ e = .sync2 ∨ e = .hdr ∨ e = .hdrOk ∨ e = .body →
      SubmitEffect b s { s.store b with state := st, pktlen := n, alg := a, out := { event := some e } }
  /-- E2, E3 and E4: the byte is stored, then the frame is rejected. -/
  | bad (e : Event) : s.count + 1 ≤ s.cfg.rxCap →
      e = .invalidAlgorithm ∨ e = .lengthOutOfBounds ∨ e = .checksumMismatch → SubmitEffect b s ((s.store b).reject e)
  /-- EV_DELIVER. -/
  | deliver (p : List Byte) : s.count + 1 ≤ s.cfg.rxCap → SubmitEffect b s ((s.store b).deliver p).toIdle

theorem submitEffect_frameComplete {b : Byte} {s u t : State} (hc : s.count + 1 ≤ s.cfg.rxCap) (n : Nat) (a : Nibble)
    (hu : u = { s.store b with pktlen := n, alg := a }) (h : frameComplete u = .next t) : SubmitEffect b s t := by
  subst hu
  obtain ⟨-, -, ⟨-, rfl⟩ | ⟨p, -, -, rfl⟩⟩ := frameComplete_next h
  · exact .bad .checksumMismatch hc (by simp)
  · exact .deliver p hc

/-- Every SUBMIT that answers has one of these effects. -/
theorem submitByte_effect {b : Byte} {s t : State} (h : submitByte b s = .next t) : SubmitEffect b s t := by
  rw [submitByte] at h
  split at h
  · rcases idleArm_next h with ⟨-, rfl⟩ | ⟨-, -, rfl⟩ | ⟨-, hc, ⟨-, rfl⟩ | ⟨-, rfl⟩⟩
    · exact .discard
    · exact .drop _ (by simp)
    · exact .keep .syncPartial s.pktlen s.alg .sync1 hc (by simp)
    · exact .keep .headerPending s.pktlen s.alg .sync1 hc (by simp)
  · rcases syncPartialArm_next h with ⟨-, rfl⟩ | ⟨-, -, rfl⟩ | ⟨-, hc, rfl⟩
    · exact .drop _ (by simp)
    · exact .drop _ (by simp)
    · exact .keep .headerPending s.pktlen s.alg .sync2 hc (by simp)
  · rcases headerArm_next h with ⟨-, rfl⟩ | ⟨hc, ⟨-, rfl⟩ | ⟨-, h⟩⟩
    · exact .drop _ (by simp)
    · exact .keep s.state s.pktlen s.alg .hdr hc (by simp)
    · obtain ⟨f, g, l, -, -, -, h⟩ := headerCheck_next h
      rcases acceptHeader_next h with ⟨-, rfl⟩ | ⟨-, -, rfl⟩ | ⟨-, -, -, ⟨-, rfl⟩ | ⟨-, h⟩⟩
      · exact .bad _ hc (by simp)
      · exact .bad _ hc (by simp)
      · exact .keep .bodyPending _ _ .hdrOk hc (by simp)
      · exact submitEffect_frameComplete hc _ _ rfl h
  · rcases bodyArm_next h with ⟨-, rfl⟩ | ⟨hc, ⟨-, rfl⟩ | ⟨-, h⟩⟩
    · exact .drop _ (by simp)
    · exact .keep s.state s.pktlen s.alg .body hc (by simp)
    · exact submitEffect_frameComplete hc s.pktlen s.alg rfl h

/-! ### ENCODE -/

/-- ENCODE always answers: a failure with its cause, or the frame written and ok(packetLen). -/
theorem encodeOp_cases (a : Nibble) (p : List Byte) (s : State) :
    (∃ c, encodeOp a p s = .next { s with out := { encResult := some .fail, cause := some c } }) ∨
      (supported a = true ∧ packetLen s.cfg a p ≤ s.cfg.txCap ∧ packetLen s.cfg a p ≤ s.cfg.protoMax.toNat ∧
        encodeOp a p s = .next { s with
          txbuf := Memory.writeAll s.txbuf 0 (encodedFrame s.cfg a p)
          out := { encResult := some (.ok (packetLen s.cfg a p)) } }) := by
  rw [encodeOp]
  split
  · exact .inl ⟨_, rfl⟩
  · split
    · exact .inl ⟨_, rfl⟩
    · split
      · exact .inl ⟨_, rfl⟩
      · rename_i hs ht hp
        exact .inr ⟨by simpa using hs, by omega, by omega, rfl⟩

/-- The frame ENCODE writes is packetLen bytes long. -/
theorem encodedFrame_length (c : Config) {a : Nibble} (h : supported a = true) (p : List Byte) :
    (encodedFrame c a p).length = packetLen c a p := by
  rcases supported_iff.1 h with rfl | rfl | rfl <;> cases hn : c.nsync <;>
    simp [encodedFrame, syncBytes, fmtAndLen, checkField, ckValue, beBytes, packetLen, Config.headerLen, NSync.toNat,
      checkLen, hn] <;> omega

end Sys2Proof.Machine
end

