-- ==== Sys2Proof/Laws/Decoder.lean ====
section
/-! SUPPORT. What the invariant proofs rest on: spans of bytes, a stored byte and the live bytes, SUBMIT and the invariant, and
streams fed byte by byte. -/

namespace Sys2Proof.Machine

/-! ### Spans -/

theorem slice_length {f : List Byte} {i j : Nat} (h : j ≤ f.length) : (slice f i j).length = j - i := by
  simp [slice]; omega

/-- A byte of a span is the byte of the sequence. -/
theorem slice_get {f : List Byte} {i j k : Nat} (h : k < j - i) : (slice f i j)[k]? = f[i + k]? := by
  simp [slice, h]

/-- A span of live bytes is read whole. -/
theorem rxSpan_bytes {s : State} {f : List Byte} {n : Nat} (hn : n ≤ f.length) (hc : n ≤ s.cfg.rxCap) (hl : n ≤ s.count)
    (hr : ∀ i, i < n → Memory.read s.rxbuf i = f[i]?) (i j : Nat) (hij : i ≤ j) (hj : j ≤ n) :
    rxSpan s i (j - i) = .ok (slice f i j) := by
  refine rxSpan_ok _ _ _ (slice_length (by omega)) (by omega) (by omega) fun k hk => ?_
  rw [slice_get hk]; exact hr _ (by omega)

theorem slice_one {f : List Byte} {n : Nat} (h : n < f.length) : slice f n (n + 1) = [f.getD n 0] := by
  apply List.ext_getElem?
  intro k
  rcases Nat.lt_or_ge k 1 with hk | hk
  · rw [slice_get (by omega)]
    obtain rfl : k = 0 := by omega
    simp [List.getD, h]
  · rw [List.getElem?_eq_none (by rw [slice_length (by omega)]; omega), List.getElem?_eq_none (by simpa using hk)]

theorem slice_two {f : List Byte} {n : Nat} (h : n + 1 < f.length) : slice f n (n + 2) = [f.getD n 0, f.getD (n + 1) 0] := by
  apply List.ext_getElem?
  intro k
  rcases Nat.lt_or_ge k 2 with hk | hk
  · rw [slice_get (by omega)]
    have : k = 0 ∨ k = 1 := by omega
    rcases this with rfl | rfl
    · simp [List.getD, show n < f.length by omega]
    · simp [List.getD, h]
  · rw [List.getElem?_eq_none (by rw [slice_length (by omega)]; omega), List.getElem?_eq_none (by simpa using hk)]

/-- Changing a byte inside a span changes it there. -/
theorem slice_set_in {f : List Byte} {i j k : Nat} {y : Byte} (hij : i ≤ k) : slice (f.set k y) i j = (slice f i j).set (k - i) y := by
  rw [slice, slice, List.drop_set, if_neg (by omega), List.take_set]

/-- Changing a byte after a span does not change the span. -/
theorem slice_set_out {f : List Byte} {i j k : Nat} {y : Byte} (h : j ≤ k) : slice (f.set k y) i j = slice f i j := by
  apply List.ext_getElem?
  intro n
  rcases Nat.lt_or_ge n (j - i) with hn | hn
  · rw [slice_get hn, slice_get hn, List.getElem?_set_ne (by omega)]
  · rw [List.getElem?_eq_none (by simp [slice]; omega), List.getElem?_eq_none (by simp [slice]; omega)]

/-! ### Sums -/

theorem supported_iff_toNat_le {a : Nibble} : supported a = true ↔ a.toNat ≤ 2 := by revert a; decide

/-- The sum as a sum of naturals. -/
theorem byteSum_eq (l : List Byte) : byteSum l = (l.map BitVec.toNat).sum := by
  induction l with
  | nil => rfl
  | cons b bs ih => simp [byteSum, ih]

theorem byteSum_append (a b : List Byte) : byteSum (a ++ b) = byteSum a + byteSum b := by
  induction a with
  | nil => simp [byteSum]
  | cons x xs ih => simp [byteSum, ih]; omega

/-- What changing one byte does to the sum. -/
theorem byteSum_set (l : List Byte) (j : Nat) (x y : Byte) (h : l[j]? = some x) : byteSum (l.set j y) + x.toNat = byteSum l + y.toNat := by
  induction l generalizing j with
  | nil => simp at h
  | cons a l ih =>
    cases j with
    | zero => simp at h; subst h; simp [byteSum]; omega
    | succ j => simp at h; simp [byteSum]; have := ih j h; omega

theorem beBytes_two (v : Nat) : beBytes 2 v = [hiByte v, loByte v] := by simp [beBytes, hiByte, loByte]

theorem beBytes_one (v : Nat) : beBytes 1 v = [loByte v] := by simp [beBytes]

/-! ### A stored byte -/

theorem liveBytes_length (s : State) : s.liveBytes.length = s.count := by simp [State.liveBytes]

/-- After a store the buffer holds the live bytes and the new one. -/
theorem read_store_eq_getElem {s : State} (hl : ∀ i, i < s.count → (Memory.read s.rxbuf i).isSome = true) (b : Byte) (i : Nat) (hi : i < s.count + 1) :
    Memory.read (s.store b).rxbuf i = (s.liveBytes ++ [b])[i]? := by
  rw [State.store_rxbuf, Memory.read_write]
  by_cases h : i = s.count
  · subst h
    rw [if_pos rfl, List.getElem?_append_right (by rw [liveBytes_length])]; simp [liveBytes_length]
  · have hi' : i < s.count := by omega
    rw [if_neg (by omega), List.getElem?_append_left (by rw [liveBytes_length]; exact hi'), State.liveBytes,
      List.getElem?_map, List.getElem?_range hi']
    obtain ⟨v, hv⟩ := Option.isSome_iff_exists.1 (hl i hi')
    simp [hv]

theorem read_store_lt {s : State} {b : Byte} {i : Nat} (h : i < s.count) : Memory.read (s.store b).rxbuf i = Memory.read s.rxbuf i := by
  rw [State.store_rxbuf, Memory.read_write_ne _ _ (by omega)]

theorem live_store {s : State} (hl : ∀ i, i < s.count → (Memory.read s.rxbuf i).isSome = true) (b : Byte) (i : Nat) (hi : i < s.count + 1) :
    (Memory.read (s.store b).rxbuf i).isSome = true := by
  rw [State.store_rxbuf, Memory.read_write]
  split
  · rfl
  · exact hl i (by omega)

theorem State.MemoryWf.store {s : State} (h : s.MemoryWf) (b) : (s.store b).MemoryWf := ⟨Memory.wf_write h.1 _ _, h.2⟩

theorem State.InBounds.store {s : State} (h : s.InBounds) (b) (hc : s.count + 1 ≤ s.cfg.rxCap) : (s.store b).InBounds :=
  ⟨Memory.below_write h.1 b (by omega), h.2⟩

theorem State.SyncStored.store {s : State} (h : s.SyncStored) (b : Byte) (hc : s.cfg.nsync.toNat ≤ s.count) : (s.store b).SyncStored := by
  refine ⟨?_, fun h2 => ?_⟩
  · rw [read_store_lt (by have := nsync_pos s.cfg; omega)]; exact h.1
  · simp only [State.store_cfg] at h2
    rw [read_store_lt (by rw [h2] at hc; exact hc)]; exact h.2 h2

/-! ### The invariant -/

/-- Idle over good buffers meets the invariant. -/
theorem State.inv_of_idle {t : State} (h1 : t.cfg.wf = true) (h2 : t.MemoryWf) (h3 : t.InBounds) (hs : t.state = .idle) (hc : t.count = 0)
    (hp : t.pktlen = 0) (ha : t.alg = 0) : t.Inv :=
  ⟨h1, h2, h3, by omega, fun i hi => by omega, by rw [State.Phase, hs]; exact ⟨hc, hp, ha⟩⟩

/-- FRAME_COMPLETE ends in the invariant. -/
theorem frameComplete_inv {s t : State} (h : frameComplete s = .next t) (h1 : s.cfg.wf = true) (h2 : s.MemoryWf) (h3 : s.InBounds) : t.Inv := by
  obtain ⟨-, -, ⟨-, rfl⟩ | ⟨p, -, -, rfl⟩⟩ := frameComplete_next h <;> exact State.inv_of_idle h1 h2 h3 rfl rfl rfl rfl

/-- A SUBMIT that answers keeps the invariant. -/
theorem submitByte_inv {s t : State} {b : Byte} (hi : s.Inv) (h : submitByte b s = .next t) : t.Inv := by
  obtain ⟨hcfg, hmem, hbd, hcap, hlive, hph⟩ := hi
  rw [submitByte] at h
  have hn := nsync_pos s.cfg
  split at h
  · rename_i hs
    rw [State.Phase, hs] at hph
    obtain ⟨hc0, hp0, ha0⟩ := hph
    rcases idleArm_next h with ⟨-, rfl⟩ | ⟨-, -, rfl⟩ | ⟨rfl, hc, ⟨hn2, rfl⟩ | ⟨hn1, rfl⟩⟩
    · exact State.inv_of_idle hcfg hmem hbd hs hc0 hp0 ha0
    · exact State.inv_of_idle hcfg hmem hbd rfl rfl rfl rfl
    · refine ⟨hcfg, State.MemoryWf.store hmem _, State.InBounds.store hbd _ hc, hc, fun i hi => live_store hlive _ i hi, ?_⟩
      refine ⟨hn2, by simp [hc0], hp0, ha0, ?_⟩
      show Memory.read (s.store _).rxbuf 0 = _
      rw [State.store_rxbuf, hc0, Memory.read_write_same]; rfl
    · refine ⟨hcfg, State.MemoryWf.store hmem _, State.InBounds.store hbd _ hc, hc, fun i hi => live_store hlive _ i hi, ?_⟩
      refine ⟨by simp [hc0, hn1, NSync.toNat], by simp [hc0, headerLen_eq], hp0, ha0, ?_, fun h2 => ?_⟩
      · show Memory.read (s.store _).rxbuf 0 = _
        rw [State.store_rxbuf, hc0, Memory.read_write_same]; rfl
      · simp only [State.store_cfg, hn1] at h2; cases h2
  · rename_i hs
    rw [State.Phase, hs] at hph
    obtain ⟨hn2, hc1, hp0, ha0, hr0⟩ := hph
    rcases syncPartialArm_next h with ⟨-, rfl⟩ | ⟨-, -, rfl⟩ | ⟨rfl, hc, rfl⟩
    · exact State.inv_of_idle hcfg hmem hbd rfl rfl rfl rfl
    · exact State.inv_of_idle hcfg hmem hbd rfl rfl rfl rfl
    · refine ⟨hcfg, State.MemoryWf.store hmem _, State.InBounds.store hbd _ hc, hc, fun i hi => live_store hlive _ i hi, ?_⟩
      refine ⟨by simp [hc1, hn2, NSync.toNat], by simp [hc1, headerLen_eq, hn2, NSync.toNat], hp0, ha0, ?_, fun h2 => ?_⟩
      · show Memory.read (s.store _).rxbuf 0 = _
        rw [read_store_lt (by omega)]; exact hr0
      · show Memory.read (s.store _).rxbuf 1 = _
        rw [State.store_rxbuf, hc1, Memory.read_write_same]; rfl
  · rename_i hs
    rw [State.Phase, hs] at hph
    obtain ⟨hcl, hcu, hp0, ha0, hsy⟩ := hph
    rcases headerArm_next h with ⟨-, rfl⟩ | ⟨hc, ⟨hlt, rfl⟩ | ⟨hge, h⟩⟩
    · exact State.inv_of_idle hcfg hmem hbd rfl rfl rfl rfl
    · refine ⟨hcfg, State.MemoryWf.store hmem _, State.InBounds.store hbd _ hc, hc, fun i hi => live_store hlive _ i hi, ?_⟩
      rw [State.Phase]
      simp only [State.emit_state, State.store_state, hs]
      exact ⟨by simp; omega, hlt, hp0, ha0, State.SyncStored.store hsy b hcl⟩
    · obtain ⟨f, h', l, hf, hh, hl, h⟩ := headerCheck_next h
      rcases acceptHeader_next h with ⟨-, rfl⟩ | ⟨-, -, rfl⟩ | ⟨hsup, hlo, hhi, ⟨hne, rfl⟩ | ⟨-, h⟩⟩
      · exact State.inv_of_idle hcfg (State.MemoryWf.store hmem _) (State.InBounds.store hbd _ hc) rfl rfl rfl rfl
      · exact State.inv_of_idle hcfg (State.MemoryWf.store hmem _) (State.InBounds.store hbd _ hc) rfl rfl rfl rfl
      · refine ⟨hcfg, State.MemoryWf.store hmem _, State.InBounds.store hbd _ hc, hc, fun i hi => live_store hlive _ i hi, ?_⟩
        refine ⟨hge, ?_, hsup, hlo, hhi, State.SyncStored.store hsy b hcl, ⟨f, h', l, hf, hh, hl, rfl, rfl⟩⟩
        simp only [State.store_count, State.store_cfg] at hne hlo ⊢
        omega
      · exact frameComplete_inv h hcfg (State.MemoryWf.store hmem _) (State.InBounds.store hbd _ hc)
  · rename_i hs
    rw [State.Phase, hs] at hph
    obtain ⟨hcl, hcu, hsup, hlo, hhi, hsy, f, h', l, hf, hh, hl, e1, e2⟩ := hph
    rw [headerLen_eq] at hcl
    rcases bodyArm_next h with ⟨-, rfl⟩ | ⟨hc, ⟨hlt, rfl⟩ | ⟨hge, h⟩⟩
    · exact State.inv_of_idle hcfg hmem hbd rfl rfl rfl rfl
    · refine ⟨hcfg, State.MemoryWf.store hmem _, State.InBounds.store hbd _ hc, hc, fun i hi => live_store hlive _ i hi, ?_⟩
      rw [State.Phase]
      simp only [State.emit_state, State.store_state, hs]
      refine ⟨by simp [headerLen_eq]; omega, hlt, hsup, hlo, hhi, State.SyncStored.store hsy b (by omega), f, h', l, ?_, ?_, ?_, e1, e2⟩
      · exact (read_store_lt (by simp only [State.emit_cfg, State.store_cfg]; omega)).trans hf
      · exact (read_store_lt (by simp only [State.emit_cfg, State.store_cfg]; omega)).trans hh
      · exact (read_store_lt (by simp only [State.emit_cfg, State.store_cfg]; omega)).trans hl
    · exact frameComplete_inv h hcfg (State.MemoryWf.store hmem _) (State.InBounds.store hbd _ hc)

/-! ### Streams -/

theorem execAll_append (xs ys : List Instr) (s : State) : execAll (xs ++ ys) s = andThen (execAll xs s) (execAll ys) := by
  induction xs generalizing s with
  | nil => rfl
  | cons x xs ih =>
    simp only [List.cons_append, execAll]
    cases exec x s <;> simp [andThen, ih]

theorem feed_nil (s : State) : feed [] s = .next s := rfl

theorem feed_cons (x : Byte) (xs : List Byte) (s : State) : feed (x :: xs) s = andThen (submitByte x s) (feed xs) := rfl

theorem feed_one (x : Byte) (s : State) : feed [x] s = submitByte x s := by
  rw [feed_cons]; cases submitByte x s <;> rfl

theorem feed_append (xs ys : List Byte) (s : State) : feed (xs ++ ys) s = andThen (feed xs s) (feed ys) := by
  simp [feed, execAll_append]
  rfl

/-- The bytes up to `k` and then byte `k`. -/
theorem feed_take {f : List Byte} {k : Nat} (hk : k < f.length) (s : State) : feed (f.take (k + 1)) s = andThen (feed (f.take k) s) (submitByte (f.getD k 0)) := by
  rw [List.take_add_one, List.getElem?_eq_getElem hk, feed_append]
  simp only [Option.toList]
  congr 1
  funext u
  rw [feed_one]
  simp [List.getElem?_eq_getElem hk]

/-- A frame row submits as a stream does. -/
theorem submitAll_feed (bs : List Byte) (s : State) : submitAll bs s = feed bs s := by
  induction bs generalizing s with
  | nil => rfl
  | cons b bs ih =>
    rw [submitAll, feed_cons]
    congr 1; funext t; exact ih t

end Sys2Proof.Machine
end

