-- ==== Sys2Proof/Laws/PerInstr.lean ====
section
/-! SUPPORT. Per operation: the first byte of its encoding carries the bits spec/opcode_table.json fixes for its row. -/

namespace Sys2Proof.Laws.TableWord

/-- The encoding of the operation begins with a byte that has the fixed bits of its row. -/
def Statement (i : Instr) : Prop :=
  ∀ m k, tableRow i = some (m, k) → ∃ w bs, Sys2Proof.encode i = some (w :: bs) ∧ w &&& k = m

/-- A row of fixed bits and an encoding that agree. -/
theorem of_eq {i : Instr} {m k w : Byte} {bs : List Byte} (hr : tableRow i = some (m, k))
    (he : Sys2Proof.encode i = some (w :: bs)) (h : w &&& k = m) : Statement i := by
  intro m' k' hr'
  rw [hr] at hr'
  obtain ⟨rfl, rfl⟩ : m = m' ∧ k = k' := by simpa using hr'
  exact ⟨w, bs, he, h⟩

/-- A row without fixed bits. -/
theorem of_none {i : Instr} (hr : tableRow i = none) : Statement i := by
  intro m k h
  simp [hr] at h

theorem fmtByte_mask (a r : Nibble) : fmtByte a r &&& 0xF0 = fmtByte a 0 := by revert a r; decide

theorem nop : Statement .nop := of_eq rfl rfl rfl
theorem submit (b : Byte) : Statement (.submit b) := of_eq rfl rfl rfl
theorem encode (a : Nibble) (p : List Byte) : Statement (.encode a p) := of_eq rfl rfl rfl
theorem reset : Statement .reset := of_eq rfl rfl rfl
theorem submitIdle (b : Byte) : Statement (.submitIdle b) := of_eq rfl rfl rfl
theorem submitSyncPartial (b : Byte) : Statement (.submitSyncPartial b) := of_eq rfl rfl rfl
theorem submitHeader (b : Byte) : Statement (.submitHeader b) := of_eq rfl rfl rfl
theorem submitBody (b : Byte) : Statement (.submitBody b) := of_eq rfl rfl rfl
theorem fmtNone (r : Nibble) : Statement (.fmtNone r) := of_eq rfl rfl (fmtByte_mask 0 r)
theorem fmtSum8 (r : Nibble) : Statement (.fmtSum8 r) := of_eq rfl rfl (fmtByte_mask 1 r)
theorem fmtSum16 (r : Nibble) : Statement (.fmtSum16 r) := of_eq rfl rfl (fmtByte_mask 2 r)
theorem fmtCrc16 (r : Nibble) : Statement (.fmtCrc16 r) := of_eq rfl rfl (fmtByte_mask 3 r)
theorem fmtCrc32 (r : Nibble) : Statement (.fmtCrc32 r) := of_eq rfl rfl (fmtByte_mask 4 r)
theorem fmtUnrecognized5 (r : Nibble) : Statement (.fmtUnrecognized5 r) := of_eq rfl rfl (fmtByte_mask 5 r)
theorem fmtUnrecognized6 (r : Nibble) : Statement (.fmtUnrecognized6 r) := of_eq rfl rfl (fmtByte_mask 6 r)
theorem fmtUnrecognized7 (r : Nibble) : Statement (.fmtUnrecognized7 r) := of_eq rfl rfl (fmtByte_mask 7 r)
theorem fmtUnrecognized8 (r : Nibble) : Statement (.fmtUnrecognized8 r) := of_eq rfl rfl (fmtByte_mask 8 r)
theorem fmtUnrecognized9 (r : Nibble) : Statement (.fmtUnrecognized9 r) := of_eq rfl rfl (fmtByte_mask 9 r)
theorem fmtUnrecognized10 (r : Nibble) : Statement (.fmtUnrecognized10 r) := of_eq rfl rfl (fmtByte_mask 10 r)
theorem fmtUnrecognized11 (r : Nibble) : Statement (.fmtUnrecognized11 r) := of_eq rfl rfl (fmtByte_mask 11 r)
theorem fmtUnrecognized12 (r : Nibble) : Statement (.fmtUnrecognized12 r) := of_eq rfl rfl (fmtByte_mask 12 r)
theorem fmtUnrecognized13 (r : Nibble) : Statement (.fmtUnrecognized13 r) := of_eq rfl rfl (fmtByte_mask 13 r)
theorem fmtUnrecognized14 (r : Nibble) : Statement (.fmtUnrecognized14 r) := of_eq rfl rfl (fmtByte_mask 14 r)
theorem fmtUnrecognized15 (r : Nibble) : Statement (.fmtUnrecognized15 r) := of_eq rfl rfl (fmtByte_mask 15 r)
theorem encodeNone (p : List Byte) : Statement (.encodeNone p) := of_eq rfl rfl rfl
theorem encodeSum8 (p : List Byte) : Statement (.encodeSum8 p) := of_eq rfl rfl rfl
theorem encodeSum16 (p : List Byte) : Statement (.encodeSum16 p) := of_eq rfl rfl rfl
theorem encodeUnsupported3 (p : List Byte) : Statement (.encodeUnsupported3 p) := of_eq rfl rfl rfl
theorem encodeUnsupported4 (p : List Byte) : Statement (.encodeUnsupported4 p) := of_eq rfl rfl rfl
theorem encodeUnsupported5 (p : List Byte) : Statement (.encodeUnsupported5 p) := of_eq rfl rfl rfl
theorem encodeUnsupported6 (p : List Byte) : Statement (.encodeUnsupported6 p) := of_eq rfl rfl rfl
theorem encodeUnsupported7 (p : List Byte) : Statement (.encodeUnsupported7 p) := of_eq rfl rfl rfl
theorem encodeUnsupported8 (p : List Byte) : Statement (.encodeUnsupported8 p) := of_eq rfl rfl rfl
theorem encodeUnsupported9 (p : List Byte) : Statement (.encodeUnsupported9 p) := of_eq rfl rfl rfl
theorem encodeUnsupported10 (p : List Byte) : Statement (.encodeUnsupported10 p) := of_eq rfl rfl rfl
theorem encodeUnsupported11 (p : List Byte) : Statement (.encodeUnsupported11 p) := of_eq rfl rfl rfl
theorem encodeUnsupported12 (p : List Byte) : Statement (.encodeUnsupported12 p) := of_eq rfl rfl rfl
theorem encodeUnsupported13 (p : List Byte) : Statement (.encodeUnsupported13 p) := of_eq rfl rfl rfl
theorem encodeUnsupported14 (p : List Byte) : Statement (.encodeUnsupported14 p) := of_eq rfl rfl rfl
theorem encodeUnsupported15 (p : List Byte) : Statement (.encodeUnsupported15 p) := of_eq rfl rfl rfl
theorem frameF2 (fmt : Byte) (body : List Byte) : Statement (.frameF2 fmt body) := of_none rfl
theorem frameF1 (fmt : Byte) (body : List Byte) : Statement (.frameF1 fmt body) := of_none rfl
theorem push (b : Byte) : Statement (.push b) := of_none rfl
theorem headerCheck : Statement .headerCheck := of_none rfl
theorem frameComplete : Statement .frameComplete := of_none rfl
theorem deliver (p : List Byte) : Statement (.deliver p) := of_none rfl
theorem resetToIdle : Statement .resetToIdle := of_none rfl
theorem checkLen (a : Nibble) : Statement (.checkLen a) := of_none rfl
theorem ck (a : Nibble) (span : List Byte) : Statement (.ck a span) := of_none rfl
theorem ckInit : Statement .ckInit := of_none rfl
theorem ckUpdate (b : Byte) : Statement (.ckUpdate b) := of_none rfl
theorem ckFinal (a : Nibble) : Statement (.ckFinal a) := of_none rfl

end Sys2Proof.Laws.TableWord
end

