-- ==== Sys2Proof/Tests/Slice0.lean ====
section
/-! SUPPORT. Small tests, one step each, with results from spec/95_test_vectors.md and the encoding tables, and a witness for the
hypotheses of every statement. -/

namespace Sys2Proof.Tests

open Sys2Proof.Machine

/-! ### Helpers -/

/-- Configuration T1 of the spec's vectors. -/
def t1 : Config := { Config.default with nsync := .one }

/-- STATE, COUNT, PKTLEN, ALG and the event of a next state. -/
def regs : Result → Option (DecoderState × Nat × Nat × Nibble × Option Event)
  | .next s => some (s.state, s.count, s.pktlen, s.alg, s.out.event)
  | .fault _ => none
  | .refused _ => none

/-- The outputs of a next state. -/
def outs : Result → Option Output
  | .next s => some s.out
  | .fault _ => none
  | .refused _ => none

/-- RXBUF of a next state. -/
def rx : Result → Option Memory
  | .next s => some s.rxbuf
  | .fault _ => none
  | .refused _ => none

/-- TXBUF of a next state. -/
def tx : Result → Option Memory
  | .next s => some s.txbuf
  | .fault _ => none
  | .refused _ => none

/-- ACC of a next state. -/
def accOf : Result → Option Half
  | .next s => some s.acc
  | .fault _ => none
  | .refused _ => none

/-- Why an operation faulted. -/
def faultOf : Result → Option Fault
  | .next _ => none
  | .fault f => some f
  | .refused _ => none

/-- Why an operation was refused. -/
def refusal : Result → Option Refusal
  | .next _ => none
  | .fault _ => none
  | .refused r => some r

/-- A buffer with these bytes from index 0. -/
def buf (bs : List Byte) : Memory := Memory.writeAll [] 0 bs

/-- Idle, of a configuration. -/
def idle (c : Config) : State := State.powerOn c

/-- SyncPartial: SYNC1 stored. -/
def syncPartial : State := { State.reset with state := .syncPartial, count := 1, rxbuf := buf [0xA5] }

/-- HeaderPending with these bytes of a T2 frame collected. -/
def header (bs : List Byte) : State := { State.reset with state := .headerPending, count := bs.length, rxbuf := buf bs }

/-- BodyPending with these bytes of a T2 frame collected. -/
def body (len : Nat) (a : Nibble) (bs : List Byte) : State :=
  { State.reset with state := .bodyPending, count := bs.length, pktlen := len, alg := a, rxbuf := buf bs }

/-- The state after a whole T2 frame was stored and before it completes. -/
def whole (a : Nibble) (bs : List Byte) : State := body bs.length a bs

/-- T2 with other capacities. -/
def withCaps (s : State) (rxCap txCap : Nat) : State := { s with cfg := { s.cfg with rxCap := rxCap, txCap := txCap } }

/-! ### WellFormed -/

theorem test_wf_refuses_a_long_payload :
    ∀ i ∈ [Instr.encode 2, .encodeNone, .encodeSum8, .encodeSum16, .encodeUnsupported3, .encodeUnsupported4,
        .encodeUnsupported5, .encodeUnsupported6, .encodeUnsupported7, .encodeUnsupported8, .encodeUnsupported9,
        .encodeUnsupported10, .encodeUnsupported11, .encodeUnsupported12, .encodeUnsupported13, .encodeUnsupported14,
        .encodeUnsupported15, .deliver],
      ∀ p : List Byte, (i p).wf = decide (p.length ≤ 65535) := by
  intro i hi p
  simp only [List.mem_cons, List.not_mem_nil, or_false] at hi
  rcases hi with rfl | rfl | rfl | rfl | rfl | rfl | rfl | rfl | rfl | rfl | rfl | rfl | rfl | rfl | rfl | rfl | rfl | rfl <;>
    simp [Instr.wf, lengthFits, Nat.lt_succ_iff]

/-- One ill-formed term for each length check, and the longest well-formed one. -/
theorem test_wf_refuses_65536_bytes (p q : List Byte) (hp : p.length = 65536) (hq : q.length = 65535) :
    (Instr.encode 2 p).wf = false ∧ (Instr.deliver p).wf = false ∧ (Instr.encode 2 q).wf = true := by
  simp [Instr.wf, lengthFits, hp, hq]

theorem test_wf_refuses_a_long_frame (p q r : List Byte) (hp : p.length = 65530) (hq : q.length = 65531)
    (hr : r.length = 65532) :
    (Instr.frameF2 0x20 p).wf = true ∧ (Instr.frameF2 0x20 q).wf = false ∧ (Instr.frameF1 0x20 q).wf = true ∧
    (Instr.frameF1 0x20 r).wf = false := by
  simp [Instr.wf, frameFits, hp, hq, hr]

/-! ### Decoding: words written out from 30 R89, R95, 10 R20, 42 R172 -/

theorem test_decode_op :
    decode [0b00, 0] = .ok (.nop, []) ∧ decode [0b01, 0, 0xA5] = .ok (.submit 0xA5, []) ∧
    decode [0b10, 0, 0x02, 0x00, 0x02, 0x6F, 0x6B] = .ok (.encode 2 [0x6F, 0x6B], []) ∧
    decode [0b11, 0] = .ok (.reset, []) := by
  and_intros <;> decide

theorem test_decode_arm :
    decode [0b00, 1, 0xA5] = .ok (.submitIdle 0xA5, []) ∧ decode [0b01, 1, 0x5A] = .ok (.submitSyncPartial 0x5A, []) ∧
    decode [0b10, 1, 0x20] = .ok (.submitHeader 0x20, []) ∧ decode [0b11, 1, 0x6F] = .ok (.submitBody 0x6F, []) := by
  and_intros <;> decide

theorem test_decode_fmt :
    decode [0b00000111, 2] = .ok (.fmtNone 7, []) ∧ decode [0b00010000, 2] = .ok (.fmtSum8 0, []) ∧
    decode [0b00101111, 2] = .ok (.fmtSum16 15, []) ∧ decode [0b00110000, 2] = .ok (.fmtCrc16 0, []) ∧
    decode [0b01000001, 2] = .ok (.fmtCrc32 1, []) ∧ decode [0b01010000, 2] = .ok (.fmtUnrecognized5 0, []) ∧
    decode [0b01100000, 2] = .ok (.fmtUnrecognized6 0, []) ∧ decode [0b01110000, 2] = .ok (.fmtUnrecognized7 0, []) ∧
    decode [0b10000000, 2] = .ok (.fmtUnrecognized8 0, []) ∧ decode [0b10010000, 2] = .ok (.fmtUnrecognized9 0, []) ∧
    decode [0b10100000, 2] = .ok (.fmtUnrecognized10 0, []) ∧ decode [0b10110000, 2] = .ok (.fmtUnrecognized11 0, []) ∧
    decode [0b11000000, 2] = .ok (.fmtUnrecognized12 0, []) ∧ decode [0b11010000, 2] = .ok (.fmtUnrecognized13 0, []) ∧
    decode [0b11100000, 2] = .ok (.fmtUnrecognized14 0, []) ∧ decode [0b11110000, 2] = .ok (.fmtUnrecognized15 0, []) := by
  and_intros <;> decide

theorem test_decode_encode_alg :
    decode [0b0000, 3, 0, 0] = .ok (.encodeNone [], []) ∧ decode [0b0001, 3, 0, 1, 0x6B] = .ok (.encodeSum8 [0x6B], []) ∧
    decode [0b0010, 3, 0, 0] = .ok (.encodeSum16 [], []) ∧ decode [0b0011, 3, 0, 0] = .ok (.encodeUnsupported3 [], []) ∧
    decode [0b0100, 3, 0, 0] = .ok (.encodeUnsupported4 [], []) ∧ decode [0b0101, 3, 0, 0] = .ok (.encodeUnsupported5 [], []) ∧
    decode [0b0110, 3, 0, 0] = .ok (.encodeUnsupported6 [], []) ∧ decode [0b0111, 3, 0, 0] = .ok (.encodeUnsupported7 [], []) ∧
    decode [0b1000, 3, 0, 0] = .ok (.encodeUnsupported8 [], []) ∧ decode [0b1001, 3, 0, 0] = .ok (.encodeUnsupported9 [], []) ∧
    decode [0b1010, 3, 0, 0] = .ok (.encodeUnsupported10 [], []) ∧
    decode [0b1011, 3, 0, 0] = .ok (.encodeUnsupported11 [], []) ∧
    decode [0b1100, 3, 0, 0] = .ok (.encodeUnsupported12 [], []) ∧
    decode [0b1101, 3, 0, 0] = .ok (.encodeUnsupported13 [], []) ∧
    decode [0b1110, 3, 0, 0] = .ok (.encodeUnsupported14 [], []) ∧
    decode [0b1111, 3, 0, 0] = .ok (.encodeUnsupported15 [], []) := by
  and_intros <;> decide

/-- The frames of V-SRC-1, without their sync bytes. -/
theorem test_decode_frames :
    decode [0x20, 4, 0x00, 0x09, 0x6F, 0x6B, 0x01, 0x03, 0xFF] = .ok (.frameF2 0x20 [0x6F, 0x6B, 0x01, 0x03], [0xFF]) ∧
    decode [0x20, 5, 0x00, 0x08, 0x6F, 0x6B, 0x01, 0x02] = .ok (.frameF1 0x20 [0x6F, 0x6B, 0x01, 0x02], []) := by
  and_intros <;> decide

theorem test_decode_rejects_by_name :
    decode [] = .error .incomplete ∧ decode [1] = .error .incomplete ∧ decode [1, 0] = .error .truncated ∧
    decode [2, 0, 2, 0, 3, 0x6F] = .error .truncated ∧ decode [0, 6] = .error (.reservedFormat 6) ∧
    decode [4, 1, 0] = .error (.reservedSelector 4) ∧ decode [0x10, 3, 0, 0] = .error (.reservedSelector 0x10) ∧
    decode [0x20, 4, 0, 4] = .error (.shortFrame 4) ∧ decode [0x20, 5, 0, 3] = .error (.shortFrame 3) := by
  and_intros <;> decide

/-- The INTERNAL rows have no encoding. -/
theorem test_internal_rows :
    ∀ i ∈ [Instr.push 0, .headerCheck, .frameComplete, .deliver [], .resetToIdle, .checkLen 0, .ck 1 [], .ckInit, .ckUpdate 0,
      .ckFinal 1], Sys2Proof.encode i = none := by decide

/-! ### The operations, with the spec's vectors -/

/-- 30 R95 and 70 R230 (V-RST-2, V-RST-3). -/
theorem test_nop : regs (exec .nop (header [0xA5, 0x5A, 0x20])) = some (.headerPending, 3, 0, 0, none) := by decide

theorem test_reset :
    regs (exec .reset (body 9 2 [0xA5, 0x5A, 0x20, 0x00, 0x09, 0x6F, 0x6B])) = some (.idle, 0, 0, 0, none) := by decide

/-- V-SRC-1, first byte, and V-DEC-1. -/
theorem test_submit :
    regs (exec (.submit 0xA5) State.reset) = some (.syncPartial, 1, 0, 0, some .sync1) ∧
    regs (exec (.submit 0x00) State.reset) = some (.idle, 0, 0, 0, some .discard) := by
  and_intros <;> decide

/-- V-DEC-24 with RXCAP = 0, and V-DEC-30. -/
theorem test_submitIdle :
    regs (exec (.submitIdle 0xA5) (withCaps State.reset 0 0)) = some (.idle, 0, 0, 0, some .bufferOverflow) ∧
    regs (exec (.submitIdle 0xA5) (idle t1)) = some (.headerPending, 1, 0, 0, some .sync1) := by
  and_intros <;> decide

/-- V-SRC-1, second byte, and V-DEC-3: the second 0xA5 is consumed by E1. -/
theorem test_submitSyncPartial :
    regs (exec (.submitSyncPartial 0x5A) syncPartial) = some (.headerPending, 2, 0, 0, some .sync2) ∧
    regs (exec (.submitSyncPartial 0xA5) syncPartial) = some (.idle, 0, 0, 0, some .invalidSync) := by
  and_intros <;> decide

/-- V-SRC-1, fifth byte, and V-DEC-7 (6 < 5 + 2). -/
theorem test_submitHeader :
    regs (exec (.submitHeader 0x09) (header [0xA5, 0x5A, 0x20, 0x00])) = some (.bodyPending, 5, 9, 2, some .hdrOk) ∧
    regs (exec (.submitHeader 0x06) (header [0xA5, 0x5A, 0x20, 0x00])) = some (.idle, 0, 0, 0, some .lengthOutOfBounds) := by
  and_intros <;> decide

/-- V-SRC-1, last byte, and V-DEC-10 (the low check byte flipped). -/
theorem test_submitBody :
    outs (exec (.submitBody 0x03) (body 9 2 [0xA5, 0x5A, 0x20, 0x00, 0x09, 0x6F, 0x6B, 0x01])) =
      some { deliver := some [0x6F, 0x6B], event := some .deliver } ∧
    regs (exec (.submitBody 0x02) (body 9 2 [0xA5, 0x5A, 0x20, 0x00, 0x09, 0x6F, 0x6B, 0x01])) =
      some (.idle, 0, 0, 0, some .checksumMismatch) := by
  and_intros <;> decide

/-- 41 R131: another STATE selects another arm. -/
theorem test_arm_not_selected : refusal (exec (.submitBody 0x03) State.reset) = some .armNotSelected := by decide

/-- Each FMT row, right after the sync bytes, stores its byte (30 R89, 41 R135). -/
theorem test_fmt_rows_store_their_byte :
    rx (exec (.fmtNone 0) (header [0xA5, 0x5A])) = some (buf [0xA5, 0x5A, 0x00]) ∧
    rx (exec (.fmtSum8 0) (header [0xA5, 0x5A])) = some (buf [0xA5, 0x5A, 0x10]) ∧
    rx (exec (.fmtSum16 7) (header [0xA5, 0x5A])) = some (buf [0xA5, 0x5A, 0x27]) ∧
    rx (exec (.fmtCrc16 0) (header [0xA5, 0x5A])) = some (buf [0xA5, 0x5A, 0x30]) ∧
    rx (exec (.fmtCrc32 0) (header [0xA5, 0x5A])) = some (buf [0xA5, 0x5A, 0x40]) ∧
    rx (exec (.fmtUnrecognized5 0) (header [0xA5, 0x5A])) = some (buf [0xA5, 0x5A, 0x50]) ∧
    rx (exec (.fmtUnrecognized6 0) (header [0xA5, 0x5A])) = some (buf [0xA5, 0x5A, 0x60]) ∧
    rx (exec (.fmtUnrecognized7 0) (header [0xA5, 0x5A])) = some (buf [0xA5, 0x5A, 0x70]) ∧
    rx (exec (.fmtUnrecognized8 0) (header [0xA5, 0x5A])) = some (buf [0xA5, 0x5A, 0x80]) ∧
    rx (exec (.fmtUnrecognized9 0) (header [0xA5, 0x5A])) = some (buf [0xA5, 0x5A, 0x90]) ∧
    rx (exec (.fmtUnrecognized10 0) (header [0xA5, 0x5A])) = some (buf [0xA5, 0x5A, 0xA0]) ∧
    rx (exec (.fmtUnrecognized11 0) (header [0xA5, 0x5A])) = some (buf [0xA5, 0x5A, 0xB0]) ∧
    rx (exec (.fmtUnrecognized12 0) (header [0xA5, 0x5A])) = some (buf [0xA5, 0x5A, 0xC0]) ∧
    rx (exec (.fmtUnrecognized13 0) (header [0xA5, 0x5A])) = some (buf [0xA5, 0x5A, 0xD0]) ∧
    rx (exec (.fmtUnrecognized14 0) (header [0xA5, 0x5A])) = some (buf [0xA5, 0x5A, 0xE0]) ∧
    rx (exec (.fmtUnrecognized15 0) (header [0xA5, 0x5A])) = some (buf [0xA5, 0x5A, 0xF0]) := by
  and_intros <;> decide

/-- V-ENC-12 (sync values are not escaped) and V-ENC-18 (9 > 8). -/
theorem test_encode :
    tx (exec (.encode 1 [0xA5, 0x5A]) State.reset) = some (buf [0xA5, 0x5A, 0x10, 0x00, 0x08, 0xA5, 0x5A, 0x17]) ∧
    outs (exec (.encode 2 [0x6F, 0x6B]) (withCaps State.reset 8 8)) =
      some { encResult := some .fail, cause := some .outputCapacityExceeded } := by
  and_intros <;> decide

/-- V-ENC-31: the bytes of a longer frame stay behind the shorter one. -/
theorem test_encodeNone :
    tx (exec (.encodeNone [])
        { State.reset with txbuf := buf [0xA5, 0x5A, 0x20, 0x00, 0x09, 0x6F, 0x6B, 0x01, 0x03] }) =
      some (buf [0xA5, 0x5A, 0x00, 0x00, 0x05, 0x6F, 0x6B, 0x01, 0x03]) := by decide

/-- V-ENC-2 and V-ENC-8. -/
theorem test_encodeSum8 :
    tx (exec (.encodeSum8 [0x6B, 0x6F]) State.reset) = some (buf [0xA5, 0x5A, 0x10, 0x00, 0x08, 0x6B, 0x6F, 0xF2]) ∧
    tx (exec (.encodeSum8 [0x6B, 0x6F]) (idle t1)) = some (buf [0xA5, 0x10, 0x00, 0x07, 0x6B, 0x6F, 0xF1]) := by
  and_intros <;> decide

/-- V-ENC-1 and V-ENC-11. -/
theorem test_encodeSum16 :
    tx (exec (.encodeSum16 [0x6F, 0x6B]) State.reset) =
      some (buf [0xA5, 0x5A, 0x20, 0x00, 0x09, 0x6F, 0x6B, 0x01, 0x03]) ∧
    tx (exec (.encodeSum16 []) (idle t1)) = some (buf [0xA5, 0x20, 0x00, 0x06, 0x00, 0x26]) := by
  and_intros <;> decide

/-- V-ENC-22 to V-ENC-24, for every unsupported selector. -/
theorem test_encode_unsupported :
    ∀ i ∈ [Instr.encodeUnsupported3, .encodeUnsupported4, .encodeUnsupported5, .encodeUnsupported6, .encodeUnsupported7,
        .encodeUnsupported8, .encodeUnsupported9, .encodeUnsupported10, .encodeUnsupported11, .encodeUnsupported12,
        .encodeUnsupported13, .encodeUnsupported14, .encodeUnsupported15, .encode 3, .encode 15],
      outs (exec (i [0x6F, 0x6B]) State.reset) = some { encResult := some .fail, cause := some .unsupportedAlgorithm } := by
  decide

/-- V-DEC-19 and V-DEC-20: the reserved nibble is ignored for dispatch and counted in the sum. -/
theorem test_frameF2 :
    outs (exec (.frameF2 0x27 [0x6F, 0x6B, 0x01, 0x0A]) State.reset) =
      some { deliver := some [0x6F, 0x6B], event := some .deliver } ∧
    outs (exec (.frameF2 0x27 [0x6F, 0x6B, 0x01, 0x03]) State.reset) = some { event := some .checksumMismatch } := by
  and_intros <;> decide

/-- V-DEC-30 and V-DEC-31. -/
theorem test_frameF1 :
    outs (exec (.frameF1 0x20 [0x6F, 0x6B, 0x01, 0x02]) (idle t1)) =
      some { deliver := some [0x6F, 0x6B], event := some .deliver } ∧
    outs (exec (.frameF1 0x00 []) (idle t1)) = some { deliver := some [], event := some .deliver } := by
  and_intros <;> decide

/-- 41 R132 at the last index of the buffer and one past it. -/
theorem test_push :
    rx (exec (.push 0x09) (withCaps (header [0xA5, 0x5A, 0x20, 0x00]) 5 0)) = some (buf [0xA5, 0x5A, 0x20, 0x00, 0x09]) ∧
    regs (exec (.push 0x09) (withCaps (header [0xA5, 0x5A, 0x20, 0x00]) 4 0)) =
      some (.idle, 0, 0, 0, some .bufferOverflow) := by
  and_intros <;> decide

/-- V-DEC-6 (1024 = RXCAP) and V-DEC-21 (E2 beats E3). -/
theorem test_headerCheck :
    regs (exec .headerCheck (header [0xA5, 0x5A, 0x20, 0x04, 0x00])) = some (.bodyPending, 5, 1024, 2, some .hdrOk) ∧
    regs (exec .headerCheck (header [0xA5, 0x5A, 0xF0, 0xFF, 0xFF])) = some (.idle, 0, 0, 0, some .invalidAlgorithm) := by
  and_intros <;> decide

/-- 10 R32: the header or the check field of an earlier frame, dead, is not read. -/
theorem test_dead_bytes_stop_the_internal_rows :
    faultOf (exec .headerCheck { whole 2 [0xA5, 0x5A, 0x20, 0x00, 0x05] with count := 0 }) = some (.rxDead 2) ∧
    faultOf (exec .frameComplete { whole 1 [0xA5, 0x5A, 0x10, 0x00, 0x06, 0x16] with count := 5 }) = some (.rxDead 5) := by
  and_intros <;> decide

/-- V-DEC-17 and V-DEC-35. -/
theorem test_frameComplete :
    outs (exec .frameComplete (whole 1 [0xA5, 0x5A, 0x10, 0x00, 0x06, 0x16])) =
      some { deliver := some [], event := some .deliver } ∧
    outs (exec .frameComplete (whole 1 [0xA5, 0x5A, 0x10, 0x00, 0x09, 0x6F, 0x6B, 0x01, 0x03])) =
      some { event := some .checksumMismatch } := by
  and_intros <;> decide

/-- 41 R150 with the ports of 30 R95. -/
theorem test_deliver :
    (outs (exec (.deliver [0x6F, 0x6B]) State.reset)).map (fun o => (o.msgValid, o.msgLen)) = some (true, 2) := by decide

/-- 60 R200. -/
theorem test_resetToIdle :
    regs (exec .resetToIdle (whole 2 [0xA5, 0x5A, 0x20, 0x00, 0x05])) = some (.idle, 0, 0, 0, none) := by decide

/-- 40 R110. -/
theorem test_checkLen :
    ∀ x ∈ [((0 : Nibble), 0), (1, 1), (2, 2), (3, 2), (4, 4)],
      outs (exec (.checkLen x.1) State.reset) = some { value := some x.2 } := by decide

/-- V-CK-1, V-CK-5 and V-CK-9. -/
theorem test_ck :
    outs (exec (.ck 1 [0x80, 0x80]) State.reset) = some { value := some 0x00 } ∧
    outs (exec (.ck 2 [0x80, 0x80]) State.reset) = some { value := some 0x0100 } ∧
    outs (exec (.ck 2 []) State.reset) = some { value := some 0 } ∧
    outs (exec (.ck 2 [0x20, 0x00, 0x09, 0x6F, 0x6B]) State.reset) = some { value := some 0x0103 } := by
  and_intros <;> decide

/-- V-CK-7 and V-CK-8: SUM16 of 257 and of 258 bytes of 0xFF. -/
theorem test_ck_wraps : sum16 (List.replicate 257 0xFF) = 0xFFFF ∧ sum16 (List.replicate 258 0xFF) = 0x00FE := by
  decide +kernel

theorem test_ckInit : accOf (exec .ckInit { State.reset with acc := 0x0103 }) = some 0 := by decide

/-- The steps of V-CK-9, and the wrap of the accumulator. -/
theorem test_ckUpdate :
    accOf (exec (.ckUpdate 0x6F) { State.reset with acc := 0x0029 }) = some 0x0098 ∧
    accOf (exec (.ckUpdate 0x01) { State.reset with acc := 0xFFFF }) = some 0 := by
  and_intros <;> decide

theorem test_ckFinal :
    outs (exec (.ckFinal 1) { State.reset with acc := 0x0103 }) = some { value := some 0x03 } ∧
    outs (exec (.ckFinal 2) { State.reset with acc := 0x0103 }) = some { value := some 0x0103 } := by
  and_intros <;> decide

/-- The next operation comes from the command stream; with none, nothing happens. -/
theorem test_step :
    regs (step (State.reset.withFetchWord 8 0x01)) = some (.idle, 0, 0, 0, some .discard) ∧
    regs (step State.reset) = some (.idle, 0, 0, 0, none) ∧
    refusal (step { State.reset with cmds := [0, 9] }) = some (.illegalCommand (.reservedFormat 9)) := by
  and_intros <;> decide

/-- The numeric codes of 10 R20 and 60 R190. -/
theorem test_codes :
    [DecoderState.idle, .syncPartial, .headerPending, .bodyPending].map DecoderState.code = [0, 1, 2, 3] ∧
    [Event.discard, .invalidSync, .invalidAlgorithm, .lengthOutOfBounds, .checksumMismatch, .bufferOverflow, .sync1, .sync2,
      .hdr, .hdrOk, .body, .deliver].map Event.code = [0, 1, 2, 3, 4, 5, 8, 9, 10, 11, 12, 13] := by
  and_intros <;> decide

/-! ### Witnesses

For each statement with hypotheses, states and operands that meet them all, clause by clause, at the boundary where a clause
has one. -/

/-- The frame of V-SRC-1. -/
def frame16 : List Byte := [0xA5, 0x5A, 0x20, 0x00, 0x09, 0x6F, 0x6B, 0x01, 0x03]

/-- In HeaderPending, right after the sync bytes. -/
def afterSync : State := header [0xA5, 0x5A]

/-- In HeaderPending, before the last header byte. -/
def lastHeader : State := header [0xA5, 0x5A, 0x00, 0x00]

/-- In BodyPending, before the last byte of the frame of V-SRC-1. -/
def lastBody : State := body 9 2 [0xA5, 0x5A, 0x20, 0x00, 0x09, 0x6F, 0x6B, 0x01]

theorem reset_inv : State.reset.Inv :=
  ⟨rfl, ⟨rfl, rfl⟩, ⟨rfl, rfl⟩, by decide, fun i hi => absurd hi (by simp [State.reset, State.powerOn]), ⟨rfl, rfl, rfl⟩⟩

theorem t1_inv : (idle t1).Inv :=
  ⟨rfl, ⟨rfl, rfl⟩, ⟨rfl, rfl⟩, by decide, fun i hi => absurd hi (by simp [idle, State.powerOn]), ⟨rfl, rfl, rfl⟩⟩

theorem syncPartial_inv : syncPartial.Inv :=
  ⟨rfl, ⟨rfl, rfl⟩, ⟨rfl, rfl⟩, by decide, by decide, ⟨rfl, rfl, rfl, rfl, rfl⟩⟩

theorem afterSync_inv : afterSync.Inv :=
  ⟨rfl, ⟨rfl, rfl⟩, ⟨rfl, rfl⟩, by decide, by decide, ⟨by decide, by decide, rfl, rfl, rfl, fun _ => rfl⟩⟩

theorem lastHeader_inv : lastHeader.Inv :=
  ⟨rfl, ⟨rfl, rfl⟩, ⟨rfl, rfl⟩, by decide, by decide, ⟨by decide, by decide, rfl, rfl, rfl, fun _ => rfl⟩⟩

theorem lastBody_inv : lastBody.Inv :=
  ⟨rfl, ⟨rfl, rfl⟩, ⟨rfl, rfl⟩, by decide, by decide,
    ⟨by decide, by decide, rfl, by decide, by decide, ⟨rfl, fun _ => rfl⟩, 0x20, 0x00, 0x09, rfl, rfl, rfl, by decide, by decide⟩⟩

/-- A capacity below HEADERLEN (V-DEC-23). -/
theorem smallCap_inv : (withCaps lastHeader 4 0).Inv :=
  ⟨rfl, ⟨rfl, rfl⟩, ⟨by decide, rfl⟩, by decide, by decide, ⟨by decide, by decide, rfl, rfl, rfl, fun _ => rfl⟩⟩

theorem frame16_wf : FrameWf Config.default frame16 :=
  ⟨by decide, by decide, by decide, by decide, by decide, by decide⟩

theorem witness_DecodeOfEncodeIsIdentity :
    (Instr.encode 2 [0x6F, 0x6B]).wf = true ∧
    Sys2Proof.encode (.encode 2 [0x6F, 0x6B]) = some [0x02, 0, 0x02, 0, 2, 0x6F, 0x6B] := by decide

theorem witness_DecodeAnswersWellFormedExternalRows : decode [0x01, 0, 0xA5, 0x03] = .ok (.submit 0xA5, [0x03]) := by decide

theorem witness_StepRunsTheDecodedOperation :
    decode ({ State.reset with cmds := [0x01, 0, 0xA5] } : State).cmds = .ok (.submit 0xA5, []) ∧
    (Instr.submit 0xA5).wf = true ∧ State.reset.cmds = [] ∧ [(0x00 : Byte), 9] ≠ [] ∧
    decode [0x00, 9] = .error (.reservedFormat 9) := by
  and_intros <;> decide

theorem witness_PowerOnMeetsInvariant : Config.default.wf = true ∧ t1.wf = true := by decide

theorem witness_StateSelectsTheSubmitArm :
    State.reset.state = .idle ∧ syncPartial.state = .syncPartial ∧ afterSync.state = .headerPending ∧
    lastBody.state = .bodyPending ∧ (idle t1).cfg.nsync = .one ∧ (idle t1).state ≠ .syncPartial ∧
    regs (exec (.submit 0xA5) (idle t1)) = some (.headerPending, 1, 0, 0, some .sync1) := by
  and_intros <;> decide

/-- All four clauses: noise, NSYNC = 2, NSYNC = 1, RXCAP = 0. -/
theorem witness_IdleArmHuntsForSync1 :
    (State.reset.state = .idle ∧ State.reset.count = 0 ∧ (0x5A : Byte) ≠ State.reset.cfg.sync1) ∧
    (0xA5 = State.reset.cfg.sync1 ∧ 0 < State.reset.cfg.rxCap ∧ State.reset.cfg.nsync = .two) ∧
    ((idle t1).state = .idle ∧ (idle t1).count = 0 ∧ 0xA5 = (idle t1).cfg.sync1 ∧ 0 < (idle t1).cfg.rxCap ∧
      (idle t1).cfg.nsync = .one) ∧
    ((withCaps State.reset 0 0).state = .idle ∧ (withCaps State.reset 0 0).count = 0 ∧
      0xA5 = (withCaps State.reset 0 0).cfg.sync1 ∧ (withCaps State.reset 0 0).cfg.rxCap = 0) := by
  and_intros <;> decide

/-- All three clauses: mismatch, RXCAP = 2, RXCAP = 1. -/
theorem witness_SyncPartialArmDemandsSync2 :
    (syncPartial.state = .syncPartial ∧ syncPartial.count = 1 ∧ (0xA5 : Byte) ≠ syncPartial.cfg.sync2) ∧
    ((withCaps syncPartial 2 0).state = .syncPartial ∧ (withCaps syncPartial 2 0).count = 1 ∧
      0x5A = (withCaps syncPartial 2 0).cfg.sync2 ∧ 2 ≤ (withCaps syncPartial 2 0).cfg.rxCap) ∧
    ((withCaps syncPartial 1 0).state = .syncPartial ∧ (withCaps syncPartial 1 0).count = 1 ∧
      0x5A = (withCaps syncPartial 1 0).cfg.sync2 ∧ (withCaps syncPartial 1 0).cfg.rxCap ≤ 1) := by
  and_intros <;> decide

/-- All four clauses: no room, below HEADERLEN, at HEADERLEN with the last byte of the buffer, and the invariant. -/
theorem witness_HeaderArmCollectsTheHeader :
    ((withCaps lastHeader 4 0).state = .headerPending ∧
      (withCaps lastHeader 4 0).cfg.rxCap < (withCaps lastHeader 4 0).count + 1) ∧
    (afterSync.state = .headerPending ∧ afterSync.count + 1 ≤ afterSync.cfg.rxCap ∧
      afterSync.count + 1 < afterSync.cfg.headerLen) ∧
    ((withCaps lastHeader 5 0).state = .headerPending ∧
      (withCaps lastHeader 5 0).count + 1 ≤ (withCaps lastHeader 5 0).cfg.rxCap ∧
      (withCaps lastHeader 5 0).count + 1 = (withCaps lastHeader 5 0).cfg.headerLen) ∧
    lastHeader.Inv := by
  refine ⟨?_, ?_, ?_, lastHeader_inv⟩ <;> decide

/-- All four clauses: no room (in a state no run reaches), below PKTLEN, at PKTLEN = RXCAP, and the invariant. -/
theorem witness_BodyArmCollectsTheBody :
    ((withCaps lastBody 8 0).state = .bodyPending ∧ (withCaps lastBody 8 0).cfg.rxCap < (withCaps lastBody 8 0).count + 1) ∧
    ((body 10 2 (frame16.take 8)).state = .bodyPending ∧
      (body 10 2 (frame16.take 8)).count + 1 ≤ (body 10 2 (frame16.take 8)).cfg.rxCap ∧
      (body 10 2 (frame16.take 8)).count + 1 < (body 10 2 (frame16.take 8)).pktlen) ∧
    ((withCaps lastBody 9 0).state = .bodyPending ∧ (withCaps lastBody 9 0).count + 1 ≤ (withCaps lastBody 9 0).cfg.rxCap ∧
      (withCaps lastBody 9 0).count + 1 = (withCaps lastBody 9 0).pktlen) ∧
    lastBody.Inv := by
  refine ⟨?_, ?_, ?_, lastBody_inv⟩ <;> decide

theorem witness_PushStoresOneByteOrOverflows :
    (withCaps lastHeader 4 0).cfg.rxCap < (withCaps lastHeader 4 0).count + 1 ∧
    (withCaps lastHeader 5 0).count + 1 ≤ (withCaps lastHeader 5 0).cfg.rxCap := by decide

/-- The premises, and the four clauses: identifier 3; length 6 below and 1025 above the bounds; length 7, the least for Sum16;
length HEADERLEN for None. -/
theorem witness_HeaderCheckTestsThenLatches :
    let s := header [0xA5, 0x5A, 0x20, 0x00, 0x07]
    s.count = s.cfg.headerLen ∧ s.cfg.headerLen ≤ s.cfg.rxCap ∧ Memory.read s.rxbuf s.cfg.nsync.toNat = some 0x20 ∧
    Memory.read s.rxbuf (s.cfg.nsync.toNat + 1) = some 0x00 ∧ Memory.read s.rxbuf (s.cfg.nsync.toNat + 2) = some 0x07 ∧
    3 ≤ (hiNibble 0x30).toNat ∧ (hiNibble 0x20).toNat ≤ 2 ∧ ¬s.cfg.headerLen + checkLen (hiNibble 0x20) ≤ 6 ∧
    ¬1025 ≤ s.cfg.rxCap ∧ s.cfg.headerLen + checkLen (hiNibble 0x20) ≤ 7 ∧ 7 ≤ s.cfg.rxCap ∧
    7 ≤ s.cfg.protoMax.toNat ∧ s.count ≠ 7 ∧ (hiNibble 0x00).toNat ≤ 2 ∧
    s.cfg.headerLen + checkLen (hiNibble 0x00) ≤ 5 ∧ s.count = 5 := by
  intro s
  and_intros <;> decide

/-- The premises for Sum16, and a good and a bad frame of each kind. -/
theorem witness_FrameCompleteValidatesDeliversResets :
    let s := whole 2 frame16
    s.count = s.pktlen ∧ frame16.length = s.pktlen ∧ s.pktlen ≤ s.cfg.rxCap ∧ (∀ i, i < s.pktlen → Memory.read s.rxbuf i = frame16[i]?) ∧
    s.alg.toNat ≤ 2 ∧ s.cfg.headerLen + s.alg.toNat ≤ s.pktlen ∧ sum16 (slice frame16 2 7) = be16 0x01 0x03 ∧
    sum16 (slice frame16 2 7) ≠ be16 0x01 0x02 ∧ sum8 [0x10, 0x00, 0x08, 0x6B, 0x6F] = 0xF2 ∧
    sum8 [0x10, 0x00, 0x08, 0x6B, 0x6F] ≠ 0xF3 ∧ (whole 0 [0xA5, 0x5A, 0x00, 0x00, 0x05]).alg = 0 := by
  intro s
  and_intros <;> decide

theorem witness_EmptyNoneFrameCompletesInItsHeader :
    lastHeader.Inv ∧ lastHeader.state = .headerPending ∧ lastHeader.count + 1 = lastHeader.cfg.headerLen ∧
    lastHeader.cfg.headerLen ≤ lastHeader.cfg.rxCap ∧ Memory.read lastHeader.rxbuf lastHeader.cfg.nsync.toNat = some 0x00 ∧
    hiNibble 0x00 = 0 ∧ Memory.read lastHeader.rxbuf (lastHeader.cfg.nsync.toNat + 1) = some 0x00 ∧
    be16 0x00 0x05 = lastHeader.cfg.headerLen := by
  refine ⟨lastHeader_inv, ?_⟩
  and_intros <;> decide

theorem witness_DeliverInvokesTheSinkOnce : ([0x6F, 0x6B] : List Byte).length < 65536 := by decide

/-- A state of the invariant for each value of STATE, and one where T13 applies. -/
theorem witness_SubmitTakesOneRowOfTheTransitionTable :
    State.reset.Inv ∧ syncPartial.Inv ∧ lastHeader.Inv ∧ lastBody.Inv ∧ lastHeader.state = .headerPending ∧
    (transition lastHeader 0x05).2.2 = .deliver :=
  ⟨reset_inv, syncPartial_inv, lastHeader_inv, lastBody_inv, rfl, by decide⟩

theorem witness_SubmitDeliversAtMostOnce :
    outs (exec (.submit 0x03) lastBody) = some { deliver := some [0x6F, 0x6B], event := some .deliver } := by decide

/-- A SUBMIT with each of the five rejections. -/
theorem witness_RejectionEndsInTheResetState :
    regs (exec (.submit 0xA5) syncPartial) = some (.idle, 0, 0, 0, some .invalidSync) ∧
    regs (exec (.submit 0x09) (header [0xA5, 0x5A, 0x30, 0x00])) = some (.idle, 0, 0, 0, some .invalidAlgorithm) ∧
    regs (exec (.submit 0x04) lastHeader) = some (.idle, 0, 0, 0, some .lengthOutOfBounds) ∧
    regs (exec (.submit 0x02) lastBody) = some (.idle, 0, 0, 0, some .checksumMismatch) ∧
    regs (exec (.submit 0x05) (withCaps lastHeader 4 0)) = some (.idle, 0, 0, 0, some .bufferOverflow) := by
  and_intros <;> decide

theorem witness_SubmitWritesOneRxByteAndNoTx :
    Instr.submitBody 0x03 ∈ [Instr.submit 0x03, .submitIdle 0x03, .submitSyncPartial 0x03, .submitHeader 0x03, .submitBody 0x03] ∧
    regs (exec (.submitBody 0x03) lastBody) = some (.idle, 0, 0, 0, some .deliver) := by decide

theorem witness_OverflowOnlyBelowHeaderLen :
    (lastBody.Inv ∧ lastBody.cfg.headerLen ≤ lastBody.cfg.rxCap ∧ lastBody.state = .bodyPending ∧
      regs (exec (.submit 0x03) lastBody) = some (.idle, 0, 0, 0, some .deliver)) ∧
    ((withCaps lastHeader 4 0).Inv ∧ (withCaps lastHeader 4 0).cfg.rxCap < (withCaps lastHeader 4 0).cfg.headerLen ∧
      regs (exec (.submit 0x05) (withCaps lastHeader 4 0)) = some (.idle, 0, 0, 0, some .bufferOverflow)) := by
  refine ⟨⟨lastBody_inv, ?_⟩, smallCap_inv, ?_⟩ <;> and_intros <;> decide

theorem witness_WellFormedFrameIsDelivered :
    State.reset.Inv ∧ State.reset.state = .idle ∧ FrameWf State.reset.cfg frame16 ∧ 8 < frame16.length :=
  ⟨reset_inv, rfl, frame16_wf, by decide⟩

theorem witness_NoiseBetweenFramesIsHarmless :
    State.reset.Inv ∧ State.reset.state = .idle ∧
    (∀ x ∈ [(([0x00, 0x5A, 0xFF] : List Byte), frame16), ([0x11, 0x22], frame16)],
      (∀ b ∈ x.1, b ≠ State.reset.cfg.sync1) ∧ FrameWf State.reset.cfg x.2) ∧
    ∀ b ∈ [(0x00 : Byte)], b ≠ State.reset.cfg.sync1 := by
  refine ⟨reset_inv, rfl, fun x hx => ?_, by decide⟩
  simp only [List.mem_cons, List.not_mem_nil, or_false] at hx
  rcases hx with rfl | rfl <;> exact ⟨by decide, frame16_wf⟩

/-- The largest payload of the defaults with Sum16 (00 R13: 1017), and one of two bytes. -/
theorem witness_EncodeThenDecodeRoundTrip :
    State.reset.Inv ∧ State.reset.state = .idle ∧ supported 2 = true ∧ maxPayload State.reset.cfg 2 = some 1017 ∧
    (List.replicate 1017 (0x03 : Byte)).length ≤ 1017 ∧ ([0x6F, 0x6B] : List Byte).length ≤ 1017 :=
  ⟨reset_inv, rfl, rfl, by decide, List.length_replicate.le, by decide⟩

/-- The first payload byte and the last check byte, the lowest and the highest bit (V-DEC-9, V-DEC-10). -/
theorem witness_SingleBitFlipIsRejected :
    State.reset.Inv ∧ State.reset.state = .idle ∧ FrameWf State.reset.cfg frame16 ∧
    (frameAlg State.reset.cfg frame16 ≠ 0 ∧ State.reset.cfg.headerLen ≤ 5 ∧ frame16[5]? = some 0x6F ∧ 0 < 8) ∧
    (State.reset.cfg.headerLen ≤ 8 ∧ frame16[8]? = some 0x03 ∧ 7 < 8) :=
  ⟨reset_inv, rfl, frame16_wf, by decide, by decide⟩

/-- Two states that differ in the dead byte at COUNT, with each of the three outcomes. -/
theorem witness_DeadBytesAreNeverRead :
    lastBody.SameLive { lastBody with rxbuf := Memory.write lastBody.rxbuf 8 0x77 } ∧
    regs (exec (.submit 0x03) lastBody) = some (.idle, 0, 0, 0, some .deliver) ∧
    faultOf (exec .frameComplete lastBody) = some (.rxDead 8) ∧
    refusal (exec (.submitIdle 0xA5) lastBody) = some .armNotSelected :=
  ⟨⟨rfl, by decide⟩, by decide⟩

/-- A stored header with one live byte too few and with one more, for each clause. -/
theorem witness_HeaderCheckAloneReadsLiveBytesOnly :
    let s := header [0xA5, 0x5A, 0x20, 0x00, 0x07, 0x6F]
    s.cfg.headerLen ≤ s.cfg.rxCap ∧ Memory.read s.rxbuf s.cfg.nsync.toNat = some 0x20 ∧
    Memory.read s.rxbuf (s.cfg.nsync.toNat + 1) = some 0x00 ∧ Memory.read s.rxbuf (s.cfg.nsync.toNat + 2) = some 0x07 ∧
    ({ s with count := 4 } : State).count < s.cfg.headerLen ∧ s.cfg.headerLen < s.count ∧ 3 ≤ (hiNibble 0x30).toNat ∧
    (hiNibble 0x20).toNat ≤ 2 ∧ ¬s.cfg.headerLen + checkLen (hiNibble 0x20) ≤ 6 ∧
    s.cfg.headerLen + checkLen (hiNibble 0x20) ≤ 7 ∧ 7 ≤ s.cfg.rxCap ∧ 7 ≤ s.cfg.protoMax.toNat ∧ s.count ≠ 7 ∧
    s.cfg.headerLen + checkLen (hiNibble 0x10) ≤ 6 ∧ s.count = 6 := by
  intro s
  and_intros <;> decide

/-- A stored frame with one live byte too few and with one more, good and bad, and a None frame without payload. -/
theorem witness_FrameCompleteAloneReadsLiveBytesOnly :
    let s := whole 2 frame16
    let e : State := whole 0 [0xA5, 0x5A, 0x00, 0x00, 0x05]
    frame16.length = s.pktlen ∧ s.pktlen ≤ s.cfg.rxCap ∧ (∀ i, i < s.pktlen → Memory.read s.rxbuf i = frame16[i]?) ∧
    s.alg.toNat ≤ 2 ∧ s.cfg.headerLen + s.alg.toNat ≤ s.pktlen ∧ s.alg ≠ 0 ∧ s.cfg.nsync.toNat < s.pktlen ∧
    ({ s with count := 8 } : State).count < s.pktlen ∧ s.pktlen < ({ s with count := 10 } : State).count ∧
    sum16 (slice frame16 2 7) = be16 0x01 0x03 ∧ sum16 (slice frame16 2 7) ≠ be16 0x01 0x02 ∧
    e.alg = 0 ∧ e.cfg.headerLen = e.pktlen := by
  intro s e
  and_intros <;> decide

theorem witness_FormatRowsSubmitTheirByte :
    (15, Instr.fmtUnrecognized15 7) ∈ fmtRows 7 ∧ (0, Instr.fmtNone 7) ∈ fmtRows 7 ∧ afterSync.Inv ∧
    afterSync.state = .headerPending ∧ afterSync.count = afterSync.cfg.nsync.toNat ∧
    (withCaps afterSync 3 0).state = .headerPending ∧
    (withCaps afterSync 3 0).count = (withCaps afterSync 3 0).cfg.nsync.toNat ∧
    (withCaps afterSync 3 0).count + 1 ≤ (withCaps afterSync 3 0).cfg.rxCap := by
  refine ⟨by decide, by decide, afterSync_inv, ?_⟩
  and_intros <;> decide

/-- Identifiers 3 and 2, the least length above the header, the greatest length. -/
theorem witness_FormatByteSelectsTheAlgorithm :
    (3, Instr.fmtCrc16 0) ∈ fmtRows 0 ∧ (2, Instr.fmtSum16 0) ∈ fmtRows 0 ∧ afterSync.Inv ∧
    afterSync.state = .headerPending ∧ afterSync.count = afterSync.cfg.nsync.toNat ∧
    afterSync.cfg.headerLen ≤ afterSync.cfg.rxCap ∧ 3 ≤ (3 : Nibble).toNat ∧ (2 : Nibble).toNat ≤ 2 ∧
    afterSync.cfg.headerLen + checkLen 2 ≤ be16 0x00 0x07 ∧ afterSync.cfg.headerLen < be16 0x00 0x07 ∧
    be16 0x04 0x00 ≤ afterSync.cfg.rxMax := by
  refine ⟨by decide, by decide, afterSync_inv, ?_⟩
  and_intros <;> decide

/-- Both formats, and the longest payload that fits. -/
theorem witness_Sum16FrameRowDeliversItsPayload :
    (State.reset.Inv ∧ State.reset.state = .idle ∧ State.reset.cfg.headerLen + 1017 + 2 ≤ State.reset.cfg.rxMax ∧
      State.reset.cfg.nsync = .two ∧
      sum16 (fmtByte 2 0 :: hiByte 9 :: loByte 9 :: [0x6F, 0x6B]) = 0x0103) ∧
    ((idle t1).Inv ∧ (idle t1).state = .idle ∧ (idle t1).cfg.headerLen + 2 + 2 ≤ (idle t1).cfg.rxMax ∧
      (idle t1).cfg.nsync = .one ∧ sum16 (fmtByte 2 0 :: hiByte 8 :: loByte 8 :: [0x6F, 0x6B]) = 0x0102) := by
  refine ⟨⟨reset_inv, ?_⟩, t1_inv, ?_⟩ <;> and_intros <;> decide

theorem witness_CheckLenAnswersTheTable : 5 ≤ (5 : Nibble).toNat ∧ 5 ≤ (15 : Nibble).toNat := by decide

theorem witness_OtherIdentifiersHaveNoChecksum :
    ((0 : Nibble) ≠ 1 ∧ (0 : Nibble) ≠ 2) ∧ ((3 : Nibble) ≠ 1 ∧ (3 : Nibble) ≠ 2) := by decide

theorem witness_ReorderingIsNotDetected : ([0x6B, 0x6F] : List Byte).Perm [0x6F, 0x6B] := List.Perm.swap ..

/-- Each failure at the least values that cause it: V-ENC-22, V-ENC-18 and V-ENC-20. -/
theorem witness_EncodeFailsWithoutWriting :
    (3, Instr.encodeUnsupported3 [0x6F, 0x6B]) ∈ encodeRows [0x6F, 0x6B] ∧ 3 ≤ (3 : Nibble).toNat ∧
    (2, Instr.encodeSum16 [0x6F, 0x6B]) ∈ encodeRows [0x6F, 0x6B] ∧ (2 : Nibble).toNat ≤ 2 ∧
    (withCaps State.reset 8 8).cfg.txCap < (withCaps State.reset 8 8).cfg.headerLen + 2 + (2 : Nibble).toNat ∧
    State.reset.cfg.headerLen + 2 + (2 : Nibble).toNat ≤ State.reset.cfg.txCap ∧
    ({ State.reset.cfg with protoMax := 8 } : Config).protoMax.toNat < State.reset.cfg.headerLen + 2 + (2 : Nibble).toNat ∧
    outs (exec (.encode 3 []) State.reset) = some { encResult := some .fail, cause := some .unsupportedAlgorithm } := by
  and_intros <;> decide

/-- V-ENC-19, where the frame fills TXBUF, and the three identifiers. -/
theorem witness_EncodeWritesTheFrame :
    (2, Instr.encodeSum16 [0x6F, 0x6B]) ∈ encodeRows [0x6F, 0x6B] ∧ (1, Instr.encodeSum8 []) ∈ encodeRows [] ∧
    (0, Instr.encodeNone []) ∈ encodeRows [] ∧ (2 : Nibble).toNat ≤ 2 ∧ (1 : Nibble).toNat ≤ 2 ∧ (0 : Nibble).toNat ≤ 2 ∧
    (withCaps State.reset 9 9).cfg.headerLen + 2 + (2 : Nibble).toNat ≤ (withCaps State.reset 9 9).cfg.txCap ∧
    (withCaps State.reset 9 9).cfg.headerLen + 2 + (2 : Nibble).toNat ≤ (withCaps State.reset 9 9).cfg.protoMax.toNat ∧
    State.reset.cfg.nsync = .two := by
  and_intros <;> decide

/-- A decoder of another RXCAP, which the frame fills. -/
theorem witness_EncodedFrameIsWellFormed :
    let c : Config := { State.reset.cfg with rxCap := 9, txCap := 0 }
    outs (exec (.encode 2 [0x6F, 0x6B]) State.reset) = some { encResult := some (.ok 9) } ∧
    c.nsync = State.reset.cfg.nsync ∧ c.sync1 = State.reset.cfg.sync1 ∧ c.sync2 = State.reset.cfg.sync2 ∧
    c.protoMax = State.reset.cfg.protoMax ∧ 9 ≤ c.rxCap := by
  intro c
  and_intros <;> decide

theorem witness_SubmitAndEncodeCommute : lastBody.Inv := lastBody_inv

theorem witness_EncodeDependsOnItsOperandsOnly :
    State.reset.cfg = lastBody.cfg ∧
    outs (exec (.encode 2 [0x6F, 0x6B]) State.reset) = some { encResult := some (.ok 9) } ∧ 8 < 9 := by decide

theorem witness_StepKeepsInvariant :
    ({ State.reset with cmds := [0x01, 0, 0xA5] } : State).Inv ∧
    regs (step { State.reset with cmds := [0x01, 0, 0xA5] }) = some (.syncPartial, 1, 0, 0, some .sync1) := by
  refine ⟨⟨rfl, ⟨rfl, rfl⟩, ⟨rfl, rfl⟩, by decide, fun i hi => absurd hi (by simp [State.reset, State.powerOn]),
    ⟨rfl, rfl, rfl⟩⟩, by decide⟩

theorem witness_NoOperationWritesOutOfBounds :
    lastBody.MemoryWf ∧ lastBody.InBounds ∧ rx (exec (.push 0x03) lastBody) = some (buf frame16) :=
  ⟨⟨rfl, rfl⟩, ⟨rfl, rfl⟩, by decide⟩

theorem witness_ConfigurationNeverChanges : regs (exec .reset lastBody) = some (.idle, 0, 0, 0, none) := by decide

theorem witness_EncodeAloneWritesTxBuf :
    tx (exec (.encodeNone []) State.reset) = some (buf [0xA5, 0x5A, 0x00, 0x00, 0x05]) ∧
    (0, Instr.encodeNone []) ∈ encodeRows [] ∧ buf [0xA5, 0x5A, 0x00, 0x00, 0x05] ≠ State.reset.txbuf := by decide

/-- A SUBMIT, and RESET, for which ACC is left free. -/
theorem witness_OnlyTheIncrementalStepsUseAcc :
    (Instr.reset ≠ .ckInit ∧ regs (exec .reset lastBody) = some (.idle, 0, 0, 0, none)) ∧ Instr.submit 0x03 ≠ .reset ∧
    Instr.submit 0x03 ≠ .ckInit ∧ (∀ b, Instr.submit 0x03 ≠ .ckUpdate b) ∧ (∀ a, Instr.submit 0x03 ≠ .ckFinal a) ∧
    regs (exec (.submit 0x03) lastBody) = some (.idle, 0, 0, 0, some .deliver) :=
  ⟨by decide, by decide, by decide, fun _ => nofun, fun _ => nofun, by decide⟩

/-- An issuable operation of each family. -/
theorem witness_StreamProgramsNeverStop :
    (∀ i ∈ [Instr.nop, .submit 0xA5, .encode 15 [], .reset, .fmtSum16 0, .encodeSum8 [0x6F],
      .frameF2 0x20 [0x6F, 0x6B, 0x01, 0x03], .frameF1 0x20 []], i.issuable = true) ∧ State.reset.Inv :=
  ⟨by decide, reset_inv⟩

end Sys2Proof.Tests
end

section
/-! The command stream: which outcome `step` gives in each of its three cases (00 R17; log entries 4 and 6). -/

namespace Sys2Proof

/-- A command takes at least its two leading bytes, so the empty stream decodes to none. -/
@[simp] theorem decode_nil : decode [] = .error .incomplete := rfl

theorem ne_nil_of_decode_eq_ok {bs rest : List Byte} {i : Instr} (h : decode bs = .ok (i, rest)) : bs ≠ [] := by
  rintro rfl
  simp at h

namespace Machine

/-- With no operation issued, the step is NOP (30 R95). -/
theorem step_of_cmds_nil {s : State} (h : s.cmds = []) : step s = exec .nop s := by
  simp only [step, h]

theorem step_of_decode_ok {s : State} {i : Instr} {rest : List Byte} (h : decode s.cmds = .ok (i, rest)) :
    step s = exec i { s with cmds := rest } := by
  obtain ⟨c, cs, hcs⟩ := List.exists_cons_of_ne_nil (ne_nil_of_decode_eq_ok h)
  rw [hcs] at h
  simp only [step, hcs, h]

theorem step_of_decode_error {s : State} {e : DecodeError} (hne : s.cmds ≠ []) (h : decode s.cmds = .error e) :
    step s = .refused (.illegalCommand e) := by
  obtain ⟨c, cs, hcs⟩ := List.exists_cons_of_ne_nil hne
  rw [hcs] at h
  simp only [step, hcs, h]

/-- Settles O4, one clause for each case of the command stream. Decoding alone decides the first: well-formedness is not used. -/
theorem stepRunsTheDecodedOperation : Obligations.StepRunsTheDecodedOperation :=
  ⟨fun _ _ _ hdec _ => step_of_decode_ok hdec, fun _ => step_of_cmds_nil, fun _ _ => step_of_decode_error⟩

end Machine

end Sys2Proof
end

section
/-! The shared operations each row of the table is made of: one case split over the rows, for every statement about `exec`. -/

namespace Sys2Proof.Machine

/-- A step that touches ACC and the outputs only: the meaning of NOP and of the rows of the checksum engine (40 R117). -/
def engineStep (g : Half → Except Refusal (Half × Output)) (s : State) : Result :=
  match g s.acc with
  | .ok (x, o) => .next { s with acc := x, out := o }
  | .error r => .refused r

/-- Which shared operation `exec` runs for a row. -/
inductive ExecForm : Instr → Prop where
  /-- SUBMIT and the format byte rows (log entry 8). -/
  | submit {i : Instr} (b : Byte) : (∀ s, exec i s = submitByte b s) → ExecForm i
  /-- An arm of SUBMIT, by the STATE that selects it (41 R131). -/
  | arm {i : Instr} (st : DecoderState) (b : Byte) :
      (∀ s, exec i s = if s.state = st then submitByte b s else .refused .armNotSelected) → ExecForm i
  /-- A frame row: SYNC1 and the bytes after it (log entry 9). -/
  | frame {i : Instr} (bs : Config → List Byte) : (∀ s, exec i s = submitAll (s.cfg.sync1 :: bs s.cfg) s) → ExecForm i
  /-- ENCODE and its sixteen rows (42 R170). -/
  | encode {i : Instr} : (∃ a p, i = .encode a p ∨ (a, i) ∈ encodeRows p) → ExecForm i
  /-- NOP and the checksum engine. -/
  | engine {i : Instr} (g : Half → Except Refusal (Half × Output)) : (∀ s, exec i s = engineStep g s) → ExecForm i
  /-- RESET and RESET_TO_IDLE (70 R234). -/
  | reset {i : Instr} : (∀ s, exec i s = .next s.toIdle.quiet) → ExecForm i
  | push (b : Byte) : ExecForm (.push b)
  | headerCheck : ExecForm .headerCheck
  | frameComplete : ExecForm .frameComplete
  | deliver (p : List Byte) : ExecForm (.deliver p)

theorem execSubmitIdle_eq (b : Byte) (s : State) :
    execSubmitIdle b s = if s.state = .idle then submitByte b s else .refused .armNotSelected := by
  rw [execSubmitIdle]; split <;> simp [submitByte, *]

theorem execSubmitSyncPartial_eq (b : Byte) (s : State) :
    execSubmitSyncPartial b s = if s.state = .syncPartial then submitByte b s else .refused .armNotSelected := by
  rw [execSubmitSyncPartial]; split <;> simp [submitByte, *]

theorem execSubmitHeader_eq (b : Byte) (s : State) :
    execSubmitHeader b s = if s.state = .headerPending then submitByte b s else .refused .armNotSelected := by
  rw [execSubmitHeader]; split <;> simp [submitByte, *]

theorem execSubmitBody_eq (b : Byte) (s : State) :
    execSubmitBody b s = if s.state = .bodyPending then submitByte b s else .refused .armNotSelected := by
  rw [execSubmitBody]; split <;> simp [submitByte, *]

/-- CK as a step of the engine. -/
theorem execCk_eq (a : Nibble) (span : List Byte) (s : State) :
    execCk a span s = engineStep (fun x => (ckValue a span).elim (.error (.checksumNotDefined a))
      fun v => .ok (x, { value := some v })) s := by
  rw [execCk, engineStep]
  cases ckValue a span <;> rfl

/-- CK_FINAL as a step of the engine. -/
theorem execCkFinal_eq (a : Nibble) (s : State) :
    execCkFinal a s = engineStep (fun x => (ckFinalValue a x).elim (.error (.checksumNotDefined a))
      fun v => .ok (x, { value := some v })) s := by
  rw [execCkFinal, engineStep]
  cases ckFinalValue a s.acc <;> rfl

/-- Every row has one of these forms. -/
theorem execForm (i : Instr) : ExecForm i := by
  cases i with
  | submit b => exact .submit b fun _ => rfl
  | fmtNone r | fmtSum8 r | fmtSum16 r | fmtCrc16 r | fmtCrc32 r | fmtUnrecognized5 r | fmtUnrecognized6 r
  | fmtUnrecognized7 r | fmtUnrecognized8 r | fmtUnrecognized9 r | fmtUnrecognized10 r | fmtUnrecognized11 r
  | fmtUnrecognized12 r | fmtUnrecognized13 r | fmtUnrecognized14 r | fmtUnrecognized15 r =>
    exact .submit (fmtByte _ r) fun _ => rfl
  | submitIdle b => exact .arm .idle b (execSubmitIdle_eq b)
  | submitSyncPartial b => exact .arm .syncPartial b (execSubmitSyncPartial_eq b)
  | submitHeader b => exact .arm .headerPending b (execSubmitHeader_eq b)
  | submitBody b => exact .arm .bodyPending b (execSubmitBody_eq b)
  | frameF2 fmt body => exact .frame (fun c => c.sync2 :: fmtAndLen fmt (5 + body.length) ++ body) fun _ => rfl
  | frameF1 fmt body => exact .frame (fun _ => fmtAndLen fmt (4 + body.length) ++ body) fun _ => rfl
  | encode a p => exact .encode ⟨a, p, .inl rfl⟩
  | encodeNone p | encodeSum8 p | encodeSum16 p | encodeUnsupported3 p | encodeUnsupported4 p | encodeUnsupported5 p
  | encodeUnsupported6 p | encodeUnsupported7 p | encodeUnsupported8 p | encodeUnsupported9 p | encodeUnsupported10 p
  | encodeUnsupported11 p | encodeUnsupported12 p | encodeUnsupported13 p | encodeUnsupported14 p
  | encodeUnsupported15 p =>
    exact .encode (by simp [encodeRows])
  | nop => exact .engine (fun x => .ok (x, {})) fun _ => rfl
  | checkLen a => exact .engine (fun x => .ok (x, { value := some (Machine.checkLen a) })) fun _ => rfl
  | ck a span => exact .engine _ (execCk_eq a span)
  | ckInit => exact .engine (fun _ => .ok (0, {})) fun _ => rfl
  | ckUpdate b => exact .engine (fun x => .ok (BitVec.ofNat 16 (x.toNat + b.toNat), {})) fun _ => rfl
  | ckFinal a => exact .engine _ (execCkFinal_eq a)
  | reset | resetToIdle => exact .reset fun _ => rfl
  | push b => exact .push b
  | headerCheck => exact .headerCheck
  | frameComplete => exact .frameComplete
  | deliver p => exact .deliver p

/-- ENCODE and its rows run the encoder with their selector (42 R172). -/
theorem exec_of_encodeRow {i : Instr} {a : Nibble} {p : List Byte} (h : i = .encode a p ∨ (a, i) ∈ encodeRows p)
    (s : State) : exec i s = encodeOp a p s := by
  rcases h with rfl | h
  · rfl
  · simp only [encodeRows, List.mem_cons, List.not_mem_nil, or_false, Prod.mk.injEq] at h
    obtain ⟨rfl, rfl⟩ | ⟨rfl, rfl⟩ | ⟨rfl, rfl⟩ | ⟨rfl, rfl⟩ | ⟨rfl, rfl⟩ | ⟨rfl, rfl⟩ | ⟨rfl, rfl⟩ | ⟨rfl, rfl⟩ |
      ⟨rfl, rfl⟩ | ⟨rfl, rfl⟩ | ⟨rfl, rfl⟩ | ⟨rfl, rfl⟩ | ⟨rfl, rfl⟩ | ⟨rfl, rfl⟩ | ⟨rfl, rfl⟩ | ⟨rfl, rfl⟩ := h <;> rfl

end Sys2Proof.Machine
end

section
/-! What every operation leaves as it was (10 R26, R27, R29): the configuration, TXBUF but for ENCODE, and the outputs unread. -/

namespace Sys2Proof.Machine

/-- What no operation of the decoder writes (41 R130, 20 R61; ACC by log entry 3). -/
structure State.DecoderKeeps (s t : State) : Prop where
  cfg : t.cfg = s.cfg
  txbuf : t.txbuf = s.txbuf
  acc : t.acc = s.acc
  cmds : t.cmds = s.cmds

theorem State.DecoderKeeps.refl (s : State) : s.DecoderKeeps s := ⟨rfl, rfl, rfl, rfl⟩

theorem State.DecoderKeeps.trans {s t u : State} (h : s.DecoderKeeps t) (h' : t.DecoderKeeps u) : s.DecoderKeeps u :=
  ⟨h'.cfg.trans h.cfg, h'.txbuf.trans h.txbuf, h'.acc.trans h.acc, h'.cmds.trans h.cmds⟩

theorem frameComplete_keeps {s t : State} (h : frameComplete s = .next t) : s.DecoderKeeps t := by
  obtain ⟨-, -, ⟨-, rfl⟩ | ⟨p, -, -, rfl⟩⟩ := frameComplete_next h <;> exact ⟨rfl, rfl, rfl, rfl⟩

theorem headerCheck_keeps {s t : State} (h : headerCheck s = .next t) : s.DecoderKeeps t := by
  obtain ⟨f, g, l, -, -, -, h⟩ := headerCheck_next h
  rcases acceptHeader_next h with ⟨-, rfl⟩ | ⟨-, -, rfl⟩ | ⟨-, -, -, ⟨-, rfl⟩ | ⟨-, h⟩⟩
  · exact ⟨rfl, rfl, rfl, rfl⟩
  · exact ⟨rfl, rfl, rfl, rfl⟩
  · exact ⟨rfl, rfl, rfl, rfl⟩
  · obtain ⟨hcfg, htx, hacc, hcmds⟩ := frameComplete_keeps h
    exact ⟨hcfg, htx, hacc, hcmds⟩

theorem submitByte_keeps {b : Byte} {s t : State} (h : submitByte b s = .next t) : s.DecoderKeeps t := by
  cases submitByte_effect h <;> exact ⟨rfl, rfl, rfl, rfl⟩

theorem submitAll_keeps {bs : List Byte} {s t : State} (h : submitAll bs s = .next t) : s.DecoderKeeps t := by
  induction bs generalizing s with
  | nil => cases h; exact .refl _
  | cons b bs ih =>
    obtain ⟨u, hu, h⟩ := andThen_next h
    exact (submitByte_keeps hu).trans (ih h)

theorem execPush_keeps {b : Byte} {s t : State} (h : execPush b s = .next t) : s.DecoderKeeps t := by
  rcases push_next h with ⟨-, rfl⟩ | ⟨-, h⟩
  · exact ⟨rfl, rfl, rfl, rfl⟩
  · cases h; exact ⟨rfl, rfl, rfl, rfl⟩

/-- What an ENCODE that answers leaves as it was (42 R170). -/
theorem encodeOp_keeps {a : Nibble} {p : List Byte} {s t : State} (h : encodeOp a p s = .next t) :
    t = { s with txbuf := t.txbuf, out := t.out } := by
  rcases encodeOp_cases a p s with ⟨c, hc⟩ | ⟨-, -, -, hok⟩
  · cases hc.symm.trans h; rfl
  · cases hok.symm.trans h; rfl

/-- A step of the engine that answers changes ACC and the outputs at most. -/
theorem engineStep_keeps {g : Half → Except Refusal (Half × Output)} {s t : State} (h : engineStep g s = .next t) :
    t = { s with acc := t.acc, out := t.out } := by
  rw [engineStep] at h
  split at h <;> cases h
  rfl

/-- An arm that answers was the SUBMIT of its byte (41 R131). -/
theorem arm_next {st : DecoderState} {b : Byte} {s t : State}
    (h : (if s.state = st then submitByte b s else .refused .armNotSelected) = .next t) : submitByte b s = .next t := by
  split at h
  · exact h
  · cases h

/-- No operation writes the configuration, and none but ENCODE and its rows writes TXBUF. -/
theorem exec_keeps {i : Instr} {s t : State} (h : exec i s = .next t) :
    t.cfg = s.cfg ∧ (t.txbuf ≠ s.txbuf → ∃ a p, i = .encode a p ∨ (a, i) ∈ encodeRows p) := by
  have of_decoder (hk : s.DecoderKeeps t) :
      t.cfg = s.cfg ∧ (t.txbuf ≠ s.txbuf → ∃ a p, i = .encode a p ∨ (a, i) ∈ encodeRows p) :=
    ⟨hk.cfg, fun hne => absurd hk.txbuf hne⟩
  cases execForm i with
  | submit b he => exact of_decoder (submitByte_keeps ((he s).symm.trans h))
  | arm st b he => exact of_decoder (submitByte_keeps (arm_next ((he s).symm.trans h)))
  | frame bs he => exact of_decoder (submitAll_keeps ((he s).symm.trans h))
  | encode hrow =>
    obtain ⟨a, p, hi⟩ := hrow
    rw [encodeOp_keeps ((exec_of_encodeRow hi s).symm.trans h)]
    exact ⟨rfl, fun _ => ⟨a, p, hi⟩⟩
  | engine g he =>
    rw [engineStep_keeps ((he s).symm.trans h)]
    exact ⟨rfl, fun hne => absurd rfl hne⟩
  | reset he => cases (he s).symm.trans h; exact of_decoder ⟨rfl, rfl, rfl, rfl⟩
  | push b => exact of_decoder (execPush_keeps h)
  | headerCheck => exact of_decoder (headerCheck_keeps h)
  | frameComplete => exact of_decoder (frameComplete_keeps h)
  | deliver p => cases h; exact of_decoder ⟨rfl, rfl, rfl, rfl⟩

/-- Settles O47: the frame of every shared operation holds the configuration. -/
theorem configurationNeverChanges : Obligations.ConfigurationNeverChanges := fun _ _ _ h => (exec_keeps h).1

/-- Settles O48: the decoder's and the engine's frames hold TXBUF, the encoder's holds the decoder's registers. -/
theorem encodeAloneWritesTxBuf : Obligations.EncodeAloneWritesTxBuf := by
  intro i s t h
  refine ⟨(exec_keeps h).2, ?_⟩
  rintro ⟨a, p, hi⟩
  rw [encodeOp_keeps ((exec_of_encodeRow hi s).symm.trans h)]
  exact ⟨rfl, rfl, rfl, rfl, rfl, rfl⟩

/-! ### The outputs are not read -/

/-- The state after an operation that put out `o`. -/
def State.withOut (s : State) (o : Output) : State := { s with out := o }

@[simp] theorem State.withOut_cfg (s : State) (o : Output) : (s.withOut o).cfg = s.cfg := rfl
@[simp] theorem State.withOut_state (s : State) (o : Output) : (s.withOut o).state = s.state := rfl

/-- PUSH does not read the outputs if what it goes on with does not. -/
theorem push_withOut {b : Byte} {k : State → Result} {s : State} {o : Output}
    (hk : k ((s.store b).withOut o) = k (s.store b)) : push b k (s.withOut o) = push b k s := by
  by_cases hc : s.cfg.rxCap < s.count + 1
  · rw [push_overflow hc, push_overflow (s := s.withOut o) hc]
    rfl
  · rw [push_store (s := s) (by omega), push_store (s := s.withOut o) (Nat.le_of_not_lt hc)]
    exact hk

theorem rxSpan_withOut (s : State) (o : Output) (i n : Nat) : rxSpan (s.withOut o) i n = rxSpan s i n :=
  rxSpan_congr i n rfl rfl fun _ _ => rfl

theorem validate_withOut (s : State) (o : Output) (len cl : Nat) : validate (s.withOut o) len cl = validate s len cl := by
  simp only [validate, rxSpan_withOut]
  rfl

theorem frameComplete_withOut (s : State) (o : Output) : frameComplete (s.withOut o) = frameComplete s := by
  simp only [frameComplete, validate_withOut, rxSpan_withOut]
  rfl

theorem acceptHeader_withOut (f h l : Byte) (s : State) (o : Output) :
    acceptHeader f h l (s.withOut o) = acceptHeader f h l s := by
  have hc := frameComplete_withOut { s with alg := hiNibble f, pktlen := be16 h l } o
  simp only [acceptHeader, ← hc]
  rfl

theorem headerCheck_withOut (s : State) (o : Output) : headerCheck (s.withOut o) = headerCheck s := by
  have hr (i : Nat) : rxRead (s.withOut o) i = rxRead s i := rfl
  simp only [headerCheck, hr, acceptHeader_withOut, State.withOut_cfg]

theorem idleArm_withOut (b : Byte) (s : State) (o : Output) : idleArm b (s.withOut o) = idleArm b s := by
  rw [idleArm, idleArm, State.withOut_cfg]
  split
  · rfl
  · exact push_withOut rfl

theorem syncPartialArm_withOut (b : Byte) (s : State) (o : Output) :
    syncPartialArm b (s.withOut o) = syncPartialArm b s := by
  rw [syncPartialArm, syncPartialArm, State.withOut_cfg]
  split
  · rfl
  · exact push_withOut rfl

theorem headerArm_withOut (b : Byte) (s : State) (o : Output) : headerArm b (s.withOut o) = headerArm b s :=
  push_withOut (by simp only [headerCheck_withOut]; rfl)

theorem bodyArm_withOut (b : Byte) (s : State) (o : Output) : bodyArm b (s.withOut o) = bodyArm b s :=
  push_withOut (by simp only [frameComplete_withOut]; rfl)

theorem submitByte_withOut (b : Byte) (s : State) (o : Output) : submitByte b (s.withOut o) = submitByte b s := by
  rw [submitByte, submitByte, State.withOut_state]
  split
  · exact idleArm_withOut b s o
  · exact syncPartialArm_withOut b s o
  · exact headerArm_withOut b s o
  · exact bodyArm_withOut b s o

/-- Every operation overwrites the outputs of the one before without looking at them. -/
theorem exec_withOut (i : Instr) (s : State) (o : Output) : exec i (s.withOut o) = exec i s := by
  cases execForm i with
  | submit b he => rw [he, he, submitByte_withOut]
  | arm st b he => rw [he, he, submitByte_withOut, State.withOut_state]
  | frame bs he => rw [he, he, submitAll, submitAll, submitByte_withOut, State.withOut_cfg]
  | encode hrow =>
    obtain ⟨a, p, hi⟩ := hrow
    rw [exec_of_encodeRow hi, exec_of_encodeRow hi]; rfl
  | engine g he => rw [he, he]; rfl
  | reset he => rw [he, he]; rfl
  | push b => exact push_withOut (k := fun t => .next t.quiet) rfl
  | headerCheck => exact headerCheck_withOut s o
  | frameComplete => exact frameComplete_withOut s o
  | deliver p => rfl

/-- Settles O49, by the form of the operation. -/
theorem outputsAreNeverRead : Obligations.OutputsAreNeverRead := exec_withOut

end Sys2Proof.Machine
end

section
/-! What decoding can answer: no operand is read past its end, and no command is one of the INTERNAL rows. -/

namespace Sys2Proof

theorem takeBytes_ok {n : Nat} {bs : List Byte} {k : List Byte → List Byte → Decoded} {r : Instr × List Byte}
    (h : takeBytes n bs k = .ok r) : n ≤ bs.length ∧ k (bs.take n) (bs.drop n) = .ok r := by
  rw [takeBytes] at h
  split at h
  · exact ⟨‹_›, h⟩
  · cases h

theorem takeByte_ok {bs : List Byte} {k : Byte → List Byte → Decoded} {r : Instr × List Byte}
    (h : takeByte bs k = .ok r) : ∃ b rest, bs = b :: rest ∧ k b rest = .ok r := by
  cases bs with
  | nil => cases h
  | cons b rest => exact ⟨b, rest, rfl, h⟩

theorem takeLen_ok {bs : List Byte} {k : Nat → List Byte → Decoded} {r : Instr × List Byte}
    (h : takeLen bs k = .ok r) : ∃ hi lo rest, bs = hi :: lo :: rest ∧ k (be16 hi lo) rest = .ok r := by
  match bs, h with
  | [], h | [_], h => cases h
  | hi :: lo :: rest, h => exact ⟨hi, lo, rest, rfl, h⟩

theorem takePayload_ok {bs : List Byte} {k : List Byte → List Byte → Decoded} {r : Instr × List Byte}
    (h : takePayload bs k = .ok r) :
    ∃ hi lo rest, bs = hi :: lo :: rest ∧ be16 hi lo ≤ rest.length ∧
      k (rest.take (be16 hi lo)) (rest.drop (be16 hi lo)) = .ok r := by
  obtain ⟨hi, lo, rest, hbs, h⟩ := takeLen_ok h
  obtain ⟨hlen, h⟩ := takeBytes_ok h
  exact ⟨hi, lo, rest, hbs, hlen, h⟩

theorem fmtInstr_internal (a r : Nibble) : (fmtInstr a r).internal = false := by
  rw [fmtInstr]; split <;> rfl

theorem encodeInstr_internal (a : Nibble) (p : List Byte) : (encodeInstr a p).internal = false := by
  rw [encodeInstr]; split <;> rfl

theorem decodeEncodeAlg_internal {w : Byte} {bs rest : List Byte} {i : Instr}
    (h : decodeEncodeAlg w bs = .ok (i, rest)) : i.internal = false := by
  rw [decodeEncodeAlg] at h
  split at h
  · obtain ⟨_, _, _, -, -, h⟩ := takePayload_ok h
    cases h
    exact encodeInstr_internal ..
  · cases h

theorem decodeOp_internal {w : Byte} {bs rest : List Byte} {i : Instr} (h : decodeOp w bs = .ok (i, rest)) :
    i.internal = false := by
  rw [decodeOp] at h
  split at h
  · cases h; rfl
  · obtain ⟨_, _, -, h⟩ := takeByte_ok h
    cases h; rfl
  · obtain ⟨_, _, -, h⟩ := takeByte_ok h
    split at h
    · obtain ⟨_, _, _, -, -, h⟩ := takePayload_ok h
      cases h; rfl
    · cases h
  · cases h; rfl
  · split at h
    · exact decodeEncodeAlg_internal h
    · cases h
      exact fmtInstr_internal ..

theorem decodeArm_internal {w : Byte} {bs rest : List Byte} {i : Instr} (h : decodeArm w bs = .ok (i, rest)) :
    i.internal = false := by
  obtain ⟨_, _, -, h⟩ := takeByte_ok h
  split at h <;> cases h <;> rfl

theorem decodeFrame_ok {hl : Nat} {mk : List Byte → Instr} {bs : List Byte} {r : Instr × List Byte}
    (h : decodeFrame hl mk bs = .ok r) :
    ∃ hi lo rest, bs = hi :: lo :: rest ∧ hl ≤ be16 hi lo ∧ be16 hi lo - hl ≤ rest.length ∧
      r = (mk (rest.take (be16 hi lo - hl)), rest.drop (be16 hi lo - hl)) := by
  obtain ⟨hi, lo, rest, hbs, h⟩ := takeLen_ok h
  split at h
  · cases h
  · obtain ⟨hlen, h⟩ := takeBytes_ok h
    cases h
    exact ⟨hi, lo, rest, hbs, by omega, hlen, rfl⟩

/-- No command is an INTERNAL row ("never selected directly"). -/
theorem decode_internal {bs rest : List Byte} {i : Instr} (h : decode bs = .ok (i, rest)) : i.internal = false := by
  match bs, h with
  | [], h | [_], h => cases h
  | w :: f :: bs, h =>
    rw [decode] at h
    split at h
    · exact decodeOp_internal h
    · exact decodeArm_internal h
    · cases h; exact fmtInstr_internal ..
    · exact decodeEncodeAlg_internal h
    · obtain ⟨_, _, _, -, -, -, h⟩ := decodeFrame_ok h
      cases h; rfl
    · obtain ⟨_, _, _, -, -, -, h⟩ := decodeFrame_ok h
      cases h; rfl
    · cases h

end Sys2Proof
end

section
/-! The invariant of 10 R34 at power-on and along every step. -/

namespace Sys2Proof.Machine

/-- Power-on is Idle over empty buffers. -/
theorem State.powerOn_inv {c : Config} (h : c.wf = true) : (State.powerOn c).Inv :=
  State.inv_of_idle h ⟨rfl, rfl⟩ ⟨rfl, rfl⟩ rfl rfl rfl rfl

/-- Settles O6: the default configuration is legal, and `State.reset` is power-on of it. -/
theorem powerOnMeetsInvariant : Obligations.PowerOnMeetsInvariant :=
  ⟨fun _ => State.powerOn_inv, State.powerOn_inv (by decide)⟩

/-- The invariant speaks of the decoder, the buffers and the configuration: with another TXBUF of the same quality, and with
any ACC, outputs, deliveries and commands, it holds as before. -/
theorem State.Inv.of_decoder_eq {s t : State} (h : s.Inv) (htx : Memory.wf t.txbuf = true)
    (hbd : Memory.below t.txbuf t.cfg.txCap = true)
    (ht : t = { s with txbuf := t.txbuf, acc := t.acc, out := t.out, sink := t.sink, cmds := t.cmds }) : t.Inv := by
  obtain ⟨hcfg, hmem, hin, hcap, hlive, hph⟩ := h
  rw [ht] at hbd ⊢
  exact ⟨hcfg, ⟨hmem.1, htx⟩, ⟨hin.1, hbd⟩, hcap, hlive, hph⟩

theorem submitAll_inv {bs : List Byte} {s t : State} (hi : s.Inv) (h : submitAll bs s = .next t) : t.Inv := by
  induction bs generalizing s with
  | nil => cases h; exact hi
  | cons b bs ih =>
    obtain ⟨u, hu, h⟩ := andThen_next h
    exact ih (submitByte_inv hi hu) h

/-- ENCODE writes its frame inside TXBUF, or nothing. -/
theorem encodeOp_inv {a : Nibble} {p : List Byte} {s t : State} (hi : s.Inv) (h : encodeOp a p s = .next t) : t.Inv := by
  rcases encodeOp_cases a p s with ⟨c, hfail⟩ | ⟨hs, hcap, -, hok⟩
  · cases hfail.symm.trans h
    exact hi.of_decoder_eq hi.memory.2 hi.bounds.2 rfl
  · cases hok.symm.trans h
    refine hi.of_decoder_eq (Memory.wf_writeAll _ hi.memory.2 0) (Memory.below_writeAll _ hi.bounds.2 0 ?_) rfl
    rwa [encodedFrame_length _ hs, Nat.zero_add]

/-- An operation from outside that answers keeps the invariant. -/
theorem exec_inv {i : Instr} {s t : State} (hext : i.internal = false) (hi : s.Inv) (h : exec i s = .next t) : t.Inv := by
  cases execForm i with
  | submit b he => exact submitByte_inv hi ((he s).symm.trans h)
  | arm st b he => exact submitByte_inv hi (arm_next ((he s).symm.trans h))
  | frame bs he => exact submitAll_inv hi ((he s).symm.trans h)
  | encode hrow =>
    obtain ⟨a, p, hrow⟩ := hrow
    exact encodeOp_inv hi ((exec_of_encodeRow hrow s).symm.trans h)
  | engine g he =>
    have ht := engineStep_keeps ((he s).symm.trans h)
    rw [ht]
    exact hi.of_decoder_eq hi.memory.2 hi.bounds.2 rfl
  | reset he =>
    cases (he s).symm.trans h
    exact State.inv_of_idle hi.config hi.memory hi.bounds rfl rfl rfl rfl
  | push b => cases hext
  | headerCheck => cases hext
  | frameComplete => cases hext
  | deliver p => cases hext

/-- Settles O45: decoding answers operations from outside only, and each of them keeps the invariant. -/
theorem stepKeepsInvariant : Obligations.StepKeepsInvariant := by
  intro s t hi h
  by_cases hnil : s.cmds = []
  · rw [step_of_cmds_nil hnil] at h
    exact exec_inv rfl hi h
  · cases hdec : decode s.cmds with
    | error e =>
      rw [step_of_decode_error hnil hdec] at h
      cases h
    | ok r =>
      obtain ⟨i, rest⟩ := r
      rw [step_of_decode_ok hdec] at h
      have hi' : ({ s with cmds := rest } : State).Inv := hi.of_decoder_eq hi.memory.2 hi.bounds.2 rfl
      exact exec_inv (decode_internal hdec) hi' h

end Sys2Proof.Machine
end

section
/-! Dead bytes of RXBUF (10 R32, 70 R232): two states that differ in them only end alike under every operation. -/

namespace Sys2Proof.Machine

/-! ### States equal but for dead bytes -/

/-- The same registers over another RXBUF. -/
def State.withRx (s : State) (m : Memory) : State := { s with rxbuf := m }

@[simp] theorem State.withRx_cfg (s : State) (m : Memory) : (s.withRx m).cfg = s.cfg := rfl
@[simp] theorem State.withRx_state (s : State) (m : Memory) : (s.withRx m).state = s.state := rfl
@[simp] theorem State.withRx_count (s : State) (m : Memory) : (s.withRx m).count = s.count := rfl
@[simp] theorem State.withRx_pktlen (s : State) (m : Memory) : (s.withRx m).pktlen = s.pktlen := rfl
@[simp] theorem State.withRx_alg (s : State) (m : Memory) : (s.withRx m).alg = s.alg := rfl
@[simp] theorem State.withRx_acc (s : State) (m : Memory) : (s.withRx m).acc = s.acc := rfl

theorem State.SameLive.exists_withRx {s s' : State} (h : s.SameLive s') : ∃ m, s' = s.withRx m := ⟨s'.rxbuf, h.rest⟩

/-- A step that leaves both buffers and makes no byte live keeps two states alike. -/
theorem State.SameLive.step {s t t' : State} {m : Memory} (h : s.SameLive (s.withRx m)) (ht' : t' = t.withRx m)
    (hrx : t.rxbuf = s.rxbuf) (hcount : t.count ≤ s.count) : t.SameLive t' := by
  subst ht'
  exact ⟨rfl, fun i hi => (h.live i (by omega)).trans (by rw [hrx])⟩

/-- A stored byte is live in both. -/
theorem State.SameLive.store {s : State} {m : Memory} (h : s.SameLive (s.withRx m)) (b : Byte) :
    (s.store b).SameLive ((s.store b).withRx (Memory.write m s.count b)) := by
  refine ⟨rfl, fun i hi => ?_⟩
  show Memory.read (Memory.write m s.count b) i = Memory.read (Memory.write s.rxbuf s.count b) i
  rw [Memory.read_write, Memory.read_write]
  split
  · rfl
  · have hi : i < s.count + 1 := hi
    exact h.live i (by omega)

theorem rxRead_withRx {s : State} {m : Memory} (h : s.SameLive (s.withRx m)) (i : Nat) :
    rxRead (s.withRx m) i = rxRead s i := rxRead_congr rfl rfl (h.live i)

theorem rxSpan_withRx {s : State} {m : Memory} (h : s.SameLive (s.withRx m)) (i n : Nat) :
    rxSpan (s.withRx m) i n = rxSpan s i n := rxSpan_congr i n rfl rfl h.live

theorem validate_withRx {s : State} {m : Memory} (h : s.SameLive (s.withRx m)) (len cl : Nat) :
    validate (s.withRx m) len cl = validate s len cl := by
  simp only [validate, State.withRx_alg, State.withRx_cfg, rxSpan_withRx h]
  rfl

/-! ### Outcomes alike -/

/-- Next states that are equal but for dead bytes, or the same stop. -/
inductive AlikeOutcome : Result → Result → Prop where
  | next {t t' : State} : t.SameLive t' → AlikeOutcome (.next t) (.next t')
  | fault (e : Fault) : AlikeOutcome (.fault e) (.fault e)
  | refused (r : Refusal) : AlikeOutcome (.refused r) (.refused r)

theorem AlikeOutcome.ends {o o' : Result} (h : AlikeOutcome o o') :
    (∀ t, o = .next t → ∃ t', o' = .next t' ∧ t.SameLive t') ∧ (∀ e, o = .fault e → o' = .fault e) ∧
      (∀ r, o = .refused r → o' = .refused r) := by
  cases h with
  | next h =>
    refine ⟨fun t ht => ?_, fun _ he => (by cases he), fun _ hr => (by cases hr)⟩
    cases ht
    exact ⟨_, rfl, h⟩
  | fault e => exact ⟨fun _ ht => (by cases ht), fun _ he => he, fun _ hr => (by cases hr)⟩
  | refused r => exact ⟨fun _ ht => (by cases ht), fun _ he => (by cases he), fun _ hr => hr⟩

theorem AlikeOutcome.andThen {o o' : Result} {k : State → Result} (h : AlikeOutcome o o')
    (hk : ∀ t m, t.SameLive (t.withRx m) → AlikeOutcome (k t) (k (t.withRx m))) :
    AlikeOutcome (andThen o k) (andThen o' k) := by
  cases h with
  | next h =>
    obtain ⟨m, rfl⟩ := h.exists_withRx
    exact hk _ m h
  | fault e => exact .fault e
  | refused r => exact .refused r

section
variable {s : State} {m : Memory} (h : s.SameLive (s.withRx m))
include h

theorem push_alike {b : Byte} {k : State → Result}
    (hk : ∀ m', (s.store b).SameLive ((s.store b).withRx m') →
      AlikeOutcome (k (s.store b)) (k ((s.store b).withRx m'))) :
    AlikeOutcome (push b k s) (push b k (s.withRx m)) := by
  rw [push, push, State.withRx_cfg, State.withRx_count]
  split
  · exact .next (h.step rfl rfl (Nat.zero_le _))
  · exact hk _ (h.store b)

theorem frameComplete_alike : AlikeOutcome (frameComplete s) (frameComplete (s.withRx m)) := by
  simp only [frameComplete, State.withRx_alg, State.withRx_pktlen, State.withRx_cfg, validate_withRx h, rxSpan_withRx h]
  split
  · exact .refused _
  · split
    · exact .fault _
    · cases validate s s.pktlen (checkLen s.alg) with
      | error e => exact .fault e
      | ok good =>
        cases good with
        | false => exact .next (h.step rfl rfl (Nat.zero_le _))
        | true =>
          cases rxSpan s s.cfg.headerLen (s.pktlen - checkLen s.alg - s.cfg.headerLen) with
          | error e => exact .fault e
          | ok p => exact .next (h.step rfl rfl (Nat.zero_le _))

theorem acceptHeader_alike (f g l : Byte) : AlikeOutcome (acceptHeader f g l s) (acceptHeader f g l (s.withRx m)) := by
  have hlatch : ({ s with alg := hiNibble f, pktlen := be16 g l } : State).SameLive
      (({ s with alg := hiNibble f, pktlen := be16 g l } : State).withRx m) := h.step rfl rfl le_rfl
  cases hs : supported (hiNibble f) with
  | false =>
    rw [acceptHeader_unsupported hs, acceptHeader_unsupported hs]
    exact .next (h.step rfl rfl (Nat.zero_le _))
  | true =>
    by_cases hb : be16 g l < s.cfg.headerLen + checkLen (hiNibble f) ∨ s.cfg.rxMax < be16 g l
    · rw [acceptHeader_badLength hs hb, acceptHeader_badLength (s := s.withRx m) hs hb]
      exact .next (h.step rfl rfl (Nat.zero_le _))
    · obtain ⟨hlo, hhi⟩ : s.cfg.headerLen + checkLen (hiNibble f) ≤ be16 g l ∧ be16 g l ≤ s.cfg.rxMax := by omega
      by_cases hc : s.count = be16 g l
      · rw [acceptHeader_complete hs hlo hhi hc, acceptHeader_complete (s := s.withRx m) hs hlo hhi hc]
        exact frameComplete_alike hlatch
      · rw [acceptHeader_latch hs hlo hhi hc, acceptHeader_latch (s := s.withRx m) hs hlo hhi hc]
        exact .next (h.step rfl rfl le_rfl)

theorem headerCheck_alike : AlikeOutcome (headerCheck s) (headerCheck (s.withRx m)) := by
  simp only [headerCheck, State.withRx_cfg, rxRead_withRx h]
  cases rxRead s s.cfg.nsync.toNat with
  | error e => exact .fault e
  | ok f =>
    cases rxRead s (s.cfg.nsync.toNat + 1) with
    | error e => exact .fault e
    | ok g =>
      cases rxRead s (s.cfg.nsync.toNat + 2) with
      | error e => exact .fault e
      | ok l => exact acceptHeader_alike h f g l

theorem idleArm_alike (b : Byte) : AlikeOutcome (idleArm b s) (idleArm b (s.withRx m)) := by
  rw [idleArm, idleArm, State.withRx_cfg]
  split
  · exact .next (h.step rfl rfl le_rfl)
  · refine push_alike h fun m' hm' => ?_
    simp only [State.withRx_cfg, State.store_cfg]
    cases s.cfg.nsync with
    | one => exact .next (hm'.step rfl rfl le_rfl)
    | two => exact .next (hm'.step rfl rfl le_rfl)

theorem syncPartialArm_alike (b : Byte) : AlikeOutcome (syncPartialArm b s) (syncPartialArm b (s.withRx m)) := by
  rw [syncPartialArm, syncPartialArm, State.withRx_cfg]
  split
  · exact .next (h.step rfl rfl (Nat.zero_le _))
  · exact push_alike h fun m' hm' => .next (hm'.step rfl rfl le_rfl)

theorem headerArm_alike (b : Byte) : AlikeOutcome (headerArm b s) (headerArm b (s.withRx m)) := by
  refine push_alike h fun m' hm' => ?_
  rw [State.withRx_count, State.withRx_cfg]
  split
  · exact .next (hm'.step rfl rfl le_rfl)
  · exact headerCheck_alike hm'

theorem bodyArm_alike (b : Byte) : AlikeOutcome (bodyArm b s) (bodyArm b (s.withRx m)) := by
  refine push_alike h fun m' hm' => ?_
  rw [State.withRx_count, State.withRx_pktlen]
  split
  · exact .next (hm'.step rfl rfl le_rfl)
  · exact frameComplete_alike hm'

theorem submitByte_alike (b : Byte) : AlikeOutcome (submitByte b s) (submitByte b (s.withRx m)) := by
  rw [submitByte, submitByte, State.withRx_state]
  split
  · exact idleArm_alike h b
  · exact syncPartialArm_alike h b
  · exact headerArm_alike h b
  · exact bodyArm_alike h b

theorem encodeOp_alike (a : Nibble) (p : List Byte) : AlikeOutcome (encodeOp a p s) (encodeOp a p (s.withRx m)) := by
  have hfail (c : EncodeCause) : AlikeOutcome (encodeFail c s) (encodeFail c (s.withRx m)) :=
    .next (h.step rfl rfl le_rfl)
  rw [encodeOp, encodeOp, State.withRx_cfg]
  split
  · exact hfail _
  · split
    · exact hfail _
    · split
      · exact hfail _
      · exact .next (h.step rfl rfl le_rfl)

theorem engineStep_alike (g : Half → Except Refusal (Half × Output)) :
    AlikeOutcome (engineStep g s) (engineStep g (s.withRx m)) := by
  rw [engineStep, engineStep, State.withRx_acc]
  cases g s.acc with
  | ok r => exact .next (h.step rfl rfl le_rfl)
  | error r => exact .refused r

end

theorem submitAll_alike (bs : List Byte) {s : State} {m : Memory} (h : s.SameLive (s.withRx m)) :
    AlikeOutcome (submitAll bs s) (submitAll bs (s.withRx m)) := by
  induction bs generalizing s m with
  | nil => exact .next h
  | cons b bs ih => exact (submitByte_alike h b).andThen fun _ _ => ih

/-- Every operation, the INTERNAL rows included, ends alike on states that are alike. -/
theorem exec_alike (i : Instr) {s : State} {m : Memory} (h : s.SameLive (s.withRx m)) :
    AlikeOutcome (exec i s) (exec i (s.withRx m)) := by
  cases execForm i with
  | submit b he => rw [he, he]; exact submitByte_alike h b
  | arm st b he =>
    rw [he, he, State.withRx_state]
    split
    · exact submitByte_alike h b
    · exact .refused _
  | frame bs he => rw [he, he, State.withRx_cfg]; exact submitAll_alike _ h
  | encode hrow =>
    obtain ⟨a, p, hrow⟩ := hrow
    rw [exec_of_encodeRow hrow, exec_of_encodeRow hrow]
    exact encodeOp_alike h a p
  | engine g he => rw [he, he]; exact engineStep_alike h g
  | reset he => rw [he, he]; exact .next (h.step rfl rfl (Nat.zero_le _))
  | push b => exact push_alike (k := fun t => .next t.quiet) h fun m' hm' => .next (hm'.step rfl rfl le_rfl)
  | headerCheck => exact headerCheck_alike h
  | frameComplete => exact frameComplete_alike h
  | deliver p => exact .next (h.step rfl rfl le_rfl)

/-! ### No SUBMIT stops for a dead byte -/

/-- On a frame whose bytes are all live, validation meets no dead byte. -/
theorem validate_ne_dead {s : State} {len cl k : Nat} (hcl : s.cfg.nsync.toNat + cl ≤ len) (hl : len ≤ s.count) :
    validate s len cl ≠ .error (.rxDead k) := by
  rw [validate]
  split
  · nofun
  · split
    · rename_i f hf
      rintro ⟨⟩
      exact rxSpan_ne_dead (by omega) hf
    · split
      · rename_i f hf
        rintro ⟨⟩
        exact rxSpan_ne_dead (by omega) hf
      · nofun

theorem frameComplete_ne_dead {s : State} {k : Nat} (hl : s.pktlen ≤ s.count) :
    frameComplete s ≠ .fault (.rxDead k) := by
  rw [frameComplete]
  split
  · nofun
  · dsimp only
    split
    · nofun
    · rename_i hlen
      rw [headerLen_eq] at hlen
      split
      · rename_i f hf
        rintro ⟨⟩
        exact validate_ne_dead (by omega) hl hf
      · nofun
      · split
        · rename_i f hf
          rintro ⟨⟩
          exact rxSpan_ne_dead (by rw [headerLen_eq]; omega) hf
        · nofun

theorem acceptHeader_ne_dead {f h l : Byte} {s : State} {k : Nat} : acceptHeader f h l s ≠ .fault (.rxDead k) := by
  rw [acceptHeader]
  dsimp only
  split
  · nofun
  · split
    · nofun
    · split
      · rename_i hc
        exact frameComplete_ne_dead hc.ge
      · nofun

theorem headerCheck_ne_dead {s : State} {k : Nat} (hl : s.cfg.headerLen ≤ s.count) :
    headerCheck s ≠ .fault (.rxDead k) := by
  rw [headerLen_eq] at hl
  rw [headerCheck]
  split
  · rename_i hr
    rintro ⟨⟩
    exact rxRead_ne_dead (by omega) hr
  · split
    · rename_i hr
      rintro ⟨⟩
      exact rxRead_ne_dead (by omega) hr
    · split
      · rename_i hr
        rintro ⟨⟩
        exact rxRead_ne_dead (by omega) hr
      · exact acceptHeader_ne_dead

theorem push_ne_fault {b : Byte} {k : State → Result} {s : State} {e : Fault} (hk : k (s.store b) ≠ .fault e) :
    push b k s ≠ .fault e := by
  rw [push]
  split
  · nofun
  · exact hk

/-- SUBMIT runs HEADER_CHECK and FRAME_COMPLETE only when COUNT has reached HEADERLEN or PKTLEN (41 R135, R136). -/
theorem submitByte_ne_dead {b : Byte} {s : State} {k : Nat} : submitByte b s ≠ .fault (.rxDead k) := by
  rw [submitByte]
  split
  · rw [idleArm]
    split
    · nofun
    · exact push_ne_fault (by split <;> nofun)
  · rw [syncPartialArm]
    split
    · nofun
    · exact push_ne_fault nofun
  · refine push_ne_fault ?_
    split
    · nofun
    · exact headerCheck_ne_dead (Nat.le_of_not_lt ‹_›)
  · refine push_ne_fault ?_
    split
    · nofun
    · exact frameComplete_ne_dead (Nat.le_of_not_lt ‹_›)

/-- Settles O29: the simulation `exec_alike`, and SUBMIT's own reads, all of live bytes. -/
theorem deadBytesAreNeverRead : Obligations.DeadBytesAreNeverRead := by
  refine ⟨fun i s s' h => ?_, fun s b k => submitByte_ne_dead⟩
  obtain ⟨m, rfl⟩ := h.exists_withRx
  obtain ⟨hnext, hfault, hrefused⟩ := (exec_alike i h).ends
  refine ⟨fun t ht => ?_, hfault, hrefused⟩
  obtain ⟨t', ht', hlive⟩ := hnext t ht
  obtain ⟨m', rfl⟩ := hlive.exists_withRx
  exact ⟨_, ht', hlive, rfl, rfl⟩

end Sys2Proof.Machine
end

section
/-! HEADER_CHECK and FRAME_COMPLETE on stored bytes, whatever COUNT is (41 R140 to R148, 10 R32; log entry 21). -/

namespace Sys2Proof.Machine

/-! ### HEADER_CHECK -/

/-- The upper length bound of 41 R143, part by part. -/
theorem le_rxMax_iff {n : Nat} {c : Config} : n ≤ c.rxMax ↔ n ≤ c.rxCap ∧ n ≤ c.protoMax.toNat := Nat.le_min

/-- A stored header of which a byte is dead stops at the first dead one. -/
theorem headerCheck_dead {s : State} {f h : Byte} (hcap : s.cfg.nsync.toNat + 2 < s.cfg.rxCap)
    (hcount : s.count ≤ s.cfg.nsync.toNat + 2) (hf : Memory.read s.rxbuf s.cfg.nsync.toNat = some f)
    (hh : Memory.read s.rxbuf (s.cfg.nsync.toNat + 1) = some h) :
    headerCheck s = .fault (.rxDead (max s.cfg.nsync.toNat s.count)) := by
  rw [headerCheck]
  obtain hc | hc | hc : s.count ≤ s.cfg.nsync.toNat ∨ s.count = s.cfg.nsync.toNat + 1 ∨
      s.count = s.cfg.nsync.toNat + 2 := by omega
  · rw [rxRead_dead (by omega) hc, Nat.max_eq_left hc]
  · rw [rxRead_ok (by omega) (by omega) hf, Nat.max_eq_right (by omega), hc]
    simp only [rxRead_dead (show s.cfg.nsync.toNat + 1 < s.cfg.rxCap by omega) hc.le]
  · rw [rxRead_ok (by omega) (by omega) hf, rxRead_ok (by omega) (by omega) hh, Nat.max_eq_right (by omega), hc]
    simp only [rxRead_dead hcap hc.le]

/-- Settles O52: with a dead header byte the row stops there, otherwise the header tests run as on a whole header. -/
theorem headerCheckAloneReadsLiveBytesOnly : Obligations.HeaderCheckAloneReadsLiveBytesOnly := by
  intro s f h l hcap hf hh hl a len legal
  rw [headerLen_eq] at hcap
  refine ⟨fun hc => headerCheck_dead (by omega) (by rw [headerLen_eq] at hc; omega) hf hh, fun hc => ?_⟩
  have hrun : exec .headerCheck s = acceptHeader f h l s :=
    headerCheck_of_reads (by omega) (by rw [headerLen_eq] at hc; omega) hf hh hl
  have hlegal : legal ↔ s.cfg.headerLen + checkLen (hiNibble f) ≤ be16 h l ∧ be16 h l ≤ s.cfg.rxMax := by
    rw [le_rxMax_iff]; rfl
  rw [hrun, hlegal]
  refine ⟨fun ha => ?_, fun ha hbad => ?_, fun ha ⟨hlo, hhi⟩ hne => ?_, fun ha ⟨hlo, hhi⟩ heq => ?_⟩
  · exact acceptHeader_unsupported (Bool.eq_false_iff.2 fun hs => absurd (supported_iff_toNat_le.1 hs) (Nat.not_le.2 ha))
  · exact acceptHeader_badLength (supported_iff_toNat_le.2 ha) (by omega)
  · exact acceptHeader_latch (supported_iff_toNat_le.2 ha) hlo hhi hne
  · exact acceptHeader_complete (supported_iff_toNat_le.2 ha) hlo hhi heq

/-! ### FRAME_COMPLETE -/

section
variable {s : State} (hs : supported s.alg = true) (hlo : s.cfg.headerLen + checkLen s.alg ≤ s.pktlen)
include hs hlo

theorem frameComplete_of_validate_error {e : Fault} (hv : validate s s.pktlen (checkLen s.alg) = .error e) :
    frameComplete s = .fault e := by
  simp [frameComplete, hs, Nat.not_lt.2 hlo, hv]

theorem frameComplete_of_validate_false (hv : validate s s.pktlen (checkLen s.alg) = .ok false) :
    frameComplete s = .next (s.reject .checksumMismatch) := by
  simp [frameComplete, hs, Nat.not_lt.2 hlo, hv]

theorem frameComplete_of_payload_error {e : Fault} (hv : validate s s.pktlen (checkLen s.alg) = .ok true)
    (hp : rxSpan s s.cfg.headerLen (s.pktlen - checkLen s.alg - s.cfg.headerLen) = .error e) :
    frameComplete s = .fault e := by
  simp [frameComplete, hs, Nat.not_lt.2 hlo, hv, hp]

theorem frameComplete_of_payload {p : List Byte} (hv : validate s s.pktlen (checkLen s.alg) = .ok true)
    (hp : rxSpan s s.cfg.headerLen (s.pktlen - checkLen s.alg - s.cfg.headerLen) = .ok p) :
    frameComplete s = .next (s.deliver p).toIdle := by
  simp [frameComplete, hs, Nat.not_lt.2 hlo, hv, hp]

end

/-- The check field of a whole frame fits its bytes (41 R146, R147): None always, Sum8 and Sum16 by the sum from the format
byte to the end of the payload. -/
def CheckFits (c : Config) (a : Nibble) (f : List Byte) : Prop :=
  a = 0 ∨ (a = 1 ∧ sum8 (slice f c.nsync.toNat (f.length - 1)) = (f.getD (f.length - 1) 0).toNat) ∨
    (a = 2 ∧ sum16 (slice f c.nsync.toNat (f.length - 2)) =
      be16 (f.getD (f.length - 2) 0) (f.getD (f.length - 1) 0))

/-- The comparison FRAME_COMPLETE makes, for the identifiers that get there. -/
theorem checkFits_iff {c : Config} {a : Nibble} {f : List Byte} (ha : supported a = true) (hlen : checkLen a ≤ f.length) :
    CheckFits c a f ↔ a = 0 ∨ ckValue a (slice f c.nsync.toNat (f.length - checkLen a)) =
      some (beValue (slice f (f.length - checkLen a) f.length)) := by
  rcases supported_iff.1 ha with rfl | rfl | rfl
  · simp [CheckFits]
  · have hlen : 1 ≤ f.length := hlen
    have hfield := slice_one (f := f) (n := f.length - 1) (by omega)
    rw [Nat.sub_add_cancel hlen] at hfield
    change _ ↔ _ ∨ some (sum8 (slice f c.nsync.toNat (f.length - 1))) = some (beValue (slice f (f.length - 1) f.length))
    simp [CheckFits, hfield, beValue]
  · have hlen : 2 ≤ f.length := hlen
    have hfield := slice_two (f := f) (n := f.length - 2) (by omega)
    rw [Nat.sub_add_cancel hlen, show f.length - 2 + 1 = f.length - 1 by omega] at hfield
    change _ ↔ _ ∨ some (sum16 (slice f c.nsync.toNat (f.length - 2))) = some (beValue (slice f (f.length - 2) f.length))
    simp [CheckFits, hfield, beValue, be16]

section
variable {s : State} {f : List Byte} (hf : f.length = s.pktlen) (hcap : s.pktlen ≤ s.cfg.rxCap)
  (hr : ∀ i, i < s.pktlen → Memory.read s.rxbuf i = f[i]?)
include hf hcap hr

/-- Validation of a stored frame that is cut short by COUNT stops at the first dead byte from the format byte on. -/
theorem validate_dead {cl : Nat} (ha : s.alg ≠ 0) (hcl : s.cfg.nsync.toNat + cl < s.pktlen) (hl : s.count < s.pktlen) :
    validate s s.pktlen cl = .error (.rxDead (max s.cfg.nsync.toNat s.count)) := by
  have hw (k : Nat) (hk : k < s.pktlen) : (Memory.read s.rxbuf k).isSome = true := by
    rw [hr k hk, List.getElem?_eq_getElem (by omega)]; rfl
  rw [validate, if_neg ha]
  by_cases hspan : s.count < s.pktlen - cl
  · rw [rxSpan_dead _ _ (by omega) (by omega) (by omega) fun k hk => hw k (by omega)]
  · have hlive := rxSpan_bytes (s := s) (n := s.pktlen - cl) (by omega) (by omega) (by omega)
      (fun i hi => hr i (by omega)) s.cfg.nsync.toNat (s.pktlen - cl) (by omega) le_rfl
    have hdead := rxSpan_dead (s := s) (s.pktlen - cl) cl (by omega) (by omega) (by omega) fun k hk => hw k (by omega)
    rw [hlive, hdead]
    simp only
    rw [Nat.max_eq_right (by omega), Nat.max_eq_right (by omega)]

variable (hs : supported s.alg = true) (hlo : s.cfg.headerLen + checkLen s.alg ≤ s.pktlen)
include hs hlo

/-- Validation of a stored frame with live bytes answers whether its check field fits. -/
theorem validate_live (hl : s.pktlen ≤ s.count) {good : Bool} (hgood : good = true ↔ CheckFits s.cfg s.alg f) :
    validate s s.pktlen (checkLen s.alg) = .ok good := by
  rw [headerLen_eq] at hlo
  have hspan := rxSpan_bytes (s := s) hf.ge hcap hl hr s.cfg.nsync.toNat (s.pktlen - checkLen s.alg) (by omega) (by omega)
  have hfield := rxSpan_bytes (s := s) hf.ge hcap hl hr (s.pktlen - checkLen s.alg) s.pktlen (by omega) le_rfl
  rw [Nat.sub_sub_self (by omega)] at hfield
  rw [checkFits_iff hs (by omega), hf] at hgood
  rw [validate]
  by_cases ha : s.alg = 0
  · rw [if_pos ha, hgood.2 (.inl ha)]
  · rw [if_neg ha, hspan, hfield]
    simp only [ha, false_or] at hgood
    simp only [← hgood, Bool.decide_eq_true]

/-- FRAME_COMPLETE on a stored frame of live bytes, or on one of which it reads nothing: delivered when its check field fits. -/
theorem frameComplete_of_fits (hl : s.pktlen ≤ s.count ∨ s.alg = 0 ∧ s.pktlen = s.cfg.headerLen)
    (hfit : CheckFits s.cfg s.alg f) :
    frameComplete s = .next (s.deliver (slice f s.cfg.headerLen (s.pktlen - checkLen s.alg))).toIdle := by
  rcases hl with hl | ⟨ha, hn⟩
  · exact frameComplete_of_payload hs hlo (validate_live hf hcap hr hs hlo hl (iff_of_true rfl hfit))
      (rxSpan_bytes hf.ge hcap hl hr s.cfg.headerLen (s.pktlen - checkLen s.alg) (by omega) (by omega))
  · have hp : slice f s.cfg.headerLen (s.pktlen - checkLen s.alg) = [] := by simp [slice, hn]
    rw [hp]
    refine frameComplete_of_payload hs hlo (by rw [validate, if_pos ha]) ?_
    rw [show s.pktlen - checkLen s.alg - s.cfg.headerLen = 0 by omega]
    rfl

/-- FRAME_COMPLETE on a stored frame of live bytes whose check field does not fit: E4. -/
theorem frameComplete_of_not_fits (hl : s.pktlen ≤ s.count ∨ s.alg = 0 ∧ s.pktlen = s.cfg.headerLen)
    (hfit : ¬CheckFits s.cfg s.alg f) : frameComplete s = .next (s.reject .checksumMismatch) := by
  rcases hl with hl | ⟨ha, -⟩
  · exact frameComplete_of_validate_false hs hlo
      (validate_live hf hcap hr hs hlo hl (iff_of_false Bool.false_ne_true hfit))
  · exact absurd (.inl ha) hfit

/-- FRAME_COMPLETE on a stored frame cut short by COUNT stops at the first dead byte of what it reads. -/
theorem frameComplete_dead (hl : s.count < s.pktlen)
    (hstart : (if s.alg = 0 then s.cfg.headerLen else s.cfg.nsync.toNat) < s.pktlen) :
    frameComplete s =
      .fault (.rxDead (max (if s.alg = 0 then s.cfg.headerLen else s.cfg.nsync.toNat) s.count)) := by
  by_cases ha : s.alg = 0
  · rw [if_pos ha] at hstart ⊢
    have hcl : checkLen s.alg = 0 := by rw [ha]; rfl
    refine frameComplete_of_payload_error hs hlo (by rw [validate, if_pos ha]) ?_
    refine rxSpan_dead _ _ (by omega) (by omega) (by omega) fun k hk => ?_
    rw [hr k (by omega), List.getElem?_eq_getElem (by omega)]; rfl
  · rw [if_neg ha]
    rw [headerLen_eq] at hlo
    exact frameComplete_of_validate_error hs (by rwa [headerLen_eq])
      (validate_dead hf hcap hr ha (by omega) hl)

end

/-- Settles O53: with a dead byte among what it reads the row stops there, otherwise the frame is validated as a whole one. -/
theorem frameCompleteAloneReadsLiveBytesOnly : Obligations.FrameCompleteAloneReadsLiveBytesOnly := by
  intro s f hf hcap hr ha hlo n start good payload
  have hs := supported_iff_toNat_le.2 ha
  rw [← checkLen_supported hs] at hlo
  have hgood : good ↔ CheckFits s.cfg s.alg f := by simp only [good, n, CheckFits, hf]
  have hpayload : payload = slice f s.cfg.headerLen (s.pktlen - checkLen s.alg) := by rw [checkLen_supported hs]
  refine ⟨fun hc hstart => frameComplete_dead hf hcap hr hs hlo hc hstart, fun hl => ?_⟩
  have hl : s.pktlen ≤ s.count ∨ s.alg = 0 ∧ s.pktlen = s.cfg.headerLen := by
    refine hl.imp le_of_lt fun hn => ?_
    by_cases ha : s.alg = 0
    · exact ⟨ha, by rw [← show start = s.pktlen from hn]; exact if_pos ha⟩
    · have hstart : start = s.cfg.nsync.toNat := if_neg ha
      rw [headerLen_eq] at hlo
      omega
  rw [hgood, hpayload]
  exact ⟨frameComplete_of_fits hf hcap hr hs hlo hl, frameComplete_of_not_fits hf hcap hr hs hlo hl⟩

end Sys2Proof.Machine
end

section
/-! Every write lands inside its buffer (20 R55, 41 R154): both buffers stay canonical and within their capacities, whatever the
registers hold. -/

namespace Sys2Proof.Machine

/-- Both buffers canonical and within their capacities. -/
def State.BuffersGood (s : State) : Prop := s.MemoryWf ∧ s.InBounds

/-- It speaks of the buffers and the capacities only. -/
theorem State.BuffersGood.of_eq {s t : State} (h : s.BuffersGood) (hcfg : t.cfg = s.cfg) (hrx : t.rxbuf = s.rxbuf)
    (htx : t.txbuf = s.txbuf) : t.BuffersGood := by
  rwa [State.BuffersGood, State.MemoryWf, State.InBounds, hcfg, hrx, htx]

/-- The accepting half of PUSH, after its capacity test (41 R132). -/
theorem State.BuffersGood.store {s : State} (h : s.BuffersGood) (b : Byte) (hc : s.count + 1 ≤ s.cfg.rxCap) :
    (s.store b).BuffersGood := ⟨h.1.store b, h.2.store b hc⟩

theorem submitByte_buffersGood {b : Byte} {s t : State} (hg : s.BuffersGood) (h : submitByte b s = .next t) :
    t.BuffersGood := by
  cases submitByte_effect h with
  | discard => exact hg.of_eq rfl rfl rfl
  | drop e _ => exact hg.of_eq rfl rfl rfl
  | keep st n a e hc _ => exact (hg.store b hc).of_eq rfl rfl rfl
  | bad e hc _ => exact (hg.store b hc).of_eq rfl rfl rfl
  | deliver p hc => exact (hg.store b hc).of_eq rfl rfl rfl

theorem submitAll_buffersGood {bs : List Byte} {s t : State} (hg : s.BuffersGood) (h : submitAll bs s = .next t) :
    t.BuffersGood := by
  induction bs generalizing s with
  | nil => cases h; exact hg
  | cons b bs ih =>
    obtain ⟨u, hu, h⟩ := andThen_next h
    exact ih (submitByte_buffersGood hg hu) h

theorem execPush_buffersGood {b : Byte} {s t : State} (hg : s.BuffersGood) (h : execPush b s = .next t) :
    t.BuffersGood := by
  rcases push_next h with ⟨-, rfl⟩ | ⟨hc, h⟩
  · exact hg.of_eq rfl rfl rfl
  · cases h; exact (hg.store b hc).of_eq rfl rfl rfl

/-- FRAME_COMPLETE stores nothing (60 R200: RXBUF is not written). -/
theorem frameComplete_rxbuf {s t : State} (h : frameComplete s = .next t) : t.rxbuf = s.rxbuf := by
  obtain ⟨-, -, ⟨-, rfl⟩ | ⟨p, -, -, rfl⟩⟩ := frameComplete_next h <;> rfl

/-- HEADER_CHECK stores nothing, the completion in the same step included (41 R144). -/
theorem headerCheck_rxbuf {s t : State} (h : headerCheck s = .next t) : t.rxbuf = s.rxbuf := by
  obtain ⟨f, g, l, -, -, -, h⟩ := headerCheck_next h
  rcases acceptHeader_next h with ⟨-, rfl⟩ | ⟨-, -, rfl⟩ | ⟨-, -, -, ⟨-, rfl⟩ | ⟨-, h⟩⟩
  · rfl
  · rfl
  · rfl
  · exact (frameComplete_rxbuf h :)

/-- ENCODE writes packetLen bytes from index 0, after testing them against TXCAP (42 R174). -/
theorem encodeOp_buffersGood {a : Nibble} {p : List Byte} {s t : State} (hg : s.BuffersGood)
    (h : encodeOp a p s = .next t) : t.BuffersGood := by
  obtain ⟨⟨hrxwf, htxwf⟩, hrxin, htxin⟩ := hg
  rcases encodeOp_cases a p s with ⟨c, hfail⟩ | ⟨hs, hcap, -, hok⟩
  · cases hfail.symm.trans h
    exact ⟨⟨hrxwf, htxwf⟩, hrxin, htxin⟩
  · cases hok.symm.trans h
    have hfit : 0 + (encodedFrame s.cfg a p).length ≤ s.cfg.txCap := by rwa [encodedFrame_length _ hs, Nat.zero_add]
    exact ⟨⟨hrxwf, Memory.wf_writeAll _ htxwf 0⟩, hrxin, Memory.below_writeAll _ htxin 0 hfit⟩

/-- Settles O46, by the form of the operation: only PUSH and ENCODE write a buffer, each after its capacity test. -/
theorem noOperationWritesOutOfBounds : Obligations.NoOperationWritesOutOfBounds := by
  intro i s t hwf hin h
  have hg : s.BuffersGood := ⟨hwf, hin⟩
  change t.BuffersGood
  cases execForm i with
  | submit b he => exact submitByte_buffersGood hg ((he s).symm.trans h)
  | arm st b he => exact submitByte_buffersGood hg (arm_next ((he s).symm.trans h))
  | frame bs he => exact submitAll_buffersGood hg ((he s).symm.trans h)
  | encode hrow =>
    obtain ⟨a, p, hrow⟩ := hrow
    exact encodeOp_buffersGood hg ((exec_of_encodeRow hrow s).symm.trans h)
  | engine g he =>
    rw [engineStep_keeps ((he s).symm.trans h)]
    exact hg.of_eq rfl rfl rfl
  | reset he => cases (he s).symm.trans h; exact hg.of_eq rfl rfl rfl
  | push b => exact execPush_buffersGood hg h
  | headerCheck =>
    obtain ⟨hcfg, htx, -, -⟩ := headerCheck_keeps h
    exact hg.of_eq hcfg (headerCheck_rxbuf h) htx
  | frameComplete =>
    obtain ⟨hcfg, htx, -, -⟩ := frameComplete_keeps h
    exact hg.of_eq hcfg (frameComplete_rxbuf h) htx
  | deliver p => cases h; exact hg.of_eq rfl rfl rfl

end Sys2Proof.Machine
end

section
/-! SUBMIT and ENCODE share no mutable state (20 R67): a SUBMIT answers from every state of the invariant and works beside
whatever TXBUF holds, and an ENCODE looks at the configuration and its operands only (42 R179). -/

namespace Sys2Proof.Machine

/-! ### A SUBMIT answers -/

/-- The buffer holds the live bytes. -/
theorem read_eq_liveBytes {s : State} (hlive : ∀ i, i < s.count → (Memory.read s.rxbuf i).isSome = true) {i : Nat}
    (hi : i < s.count) : Memory.read s.rxbuf i = s.liveBytes[i]? := by
  obtain ⟨v, hv⟩ := Option.isSome_iff_exists.1 (hlive i hi)
  simp [State.liveBytes, hi, hv]

/-- PUSH answers if what it goes on with does. -/
theorem push_answers {b : Byte} {k : State → Result} {s : State}
    (hk : s.count + 1 ≤ s.cfg.rxCap → ∃ t, k (s.store b) = .next t) : ∃ t, push b k s = .next t := by
  rcases Nat.lt_or_ge s.cfg.rxCap (s.count + 1) with hc | hc
  · exact ⟨_, push_overflow hc⟩
  · rw [push_store hc]; exact hk hc

section
variable {s : State} (hlive : ∀ i, i < s.count → (Memory.read s.rxbuf i).isSome = true)
include hlive

/-- FRAME_COMPLETE answers on a whole frame of live bytes, whether its check field fits or not. -/
theorem frameComplete_answers (hs : supported s.alg = true) (hlo : s.cfg.headerLen + checkLen s.alg ≤ s.pktlen)
    (hcap : s.pktlen ≤ s.cfg.rxCap) (hcount : s.count = s.pktlen) : ∃ t, frameComplete s = .next t := by
  have hr (i : Nat) (hi : i < s.pktlen) : Memory.read s.rxbuf i = s.liveBytes[i]? :=
    read_eq_liveBytes hlive (hcount ▸ hi)
  have hlen : s.liveBytes.length = s.pktlen := (liveBytes_length s).trans hcount
  by_cases hfit : CheckFits s.cfg s.alg s.liveBytes
  · exact ⟨_, frameComplete_of_fits hlen hcap hr hs hlo (.inl hcount.ge) hfit⟩
  · exact ⟨_, frameComplete_of_not_fits hlen hcap hr hs hlo (.inl hcount.ge) hfit⟩

/-- The header tests end with E2, E3, the latch, or a frame that is complete. -/
theorem acceptHeader_answers (f h l : Byte) : ∃ t, acceptHeader f h l s = .next t := by
  cases hs : supported (hiNibble f) with
  | false => exact ⟨_, acceptHeader_unsupported hs⟩
  | true =>
    by_cases hbad : be16 h l < s.cfg.headerLen + checkLen (hiNibble f) ∨ s.cfg.rxMax < be16 h l
    · exact ⟨_, acceptHeader_badLength hs hbad⟩
    · obtain ⟨hlo, hhi⟩ : s.cfg.headerLen + checkLen (hiNibble f) ≤ be16 h l ∧ be16 h l ≤ s.cfg.rxMax := by omega
      by_cases hc : s.count = be16 h l
      · rw [acceptHeader_complete hs hlo hhi hc]
        exact frameComplete_answers (s := { s with alg := hiNibble f, pktlen := be16 h l }) hlive hs hlo
          (hhi.trans (rxMax_le_cap _)) hc
      · exact ⟨_, acceptHeader_latch hs hlo hhi hc⟩

/-- HEADER_CHECK answers on a whole header of live bytes. -/
theorem headerCheck_answers (hcount : s.cfg.headerLen ≤ s.count) (hcap : s.count ≤ s.cfg.rxCap) :
    ∃ t, headerCheck s = .next t := by
  rw [headerLen_eq] at hcount
  obtain ⟨f, hf⟩ := Option.isSome_iff_exists.1 (hlive s.cfg.nsync.toNat (by omega))
  obtain ⟨h, hh⟩ := Option.isSome_iff_exists.1 (hlive (s.cfg.nsync.toNat + 1) (by omega))
  obtain ⟨l, hl⟩ := Option.isSome_iff_exists.1 (hlive (s.cfg.nsync.toNat + 2) (by omega))
  rw [headerCheck_of_reads (by omega) (by omega) hf hh hl]
  exact acceptHeader_answers hlive f h l

end

/-- From a state of the invariant no SUBMIT stops (41 R130). -/
theorem submitByte_answers {s : State} (hi : s.Inv) (b : Byte) : ∃ t, submitByte b s = .next t := by
  obtain ⟨-, -, -, -, hlive, hph⟩ := hi
  have hstored := live_store hlive b
  rw [submitByte]
  split
  · rw [idleArm]
    split
    · exact ⟨_, rfl⟩
    · refine push_answers fun _ => ?_
      split <;> exact ⟨_, rfl⟩
  · rw [syncPartialArm]
    split
    · exact ⟨_, rfl⟩
    · exact push_answers fun _ => ⟨_, rfl⟩
  · refine push_answers fun hc => ?_
    split
    · exact ⟨_, rfl⟩
    · exact headerCheck_answers hstored (Nat.le_of_not_lt ‹_›) hc
  · rename_i hs
    rw [State.Phase, hs] at hph
    obtain ⟨-, hcount, hsup, hlo, hhi, -, -⟩ := hph
    refine push_answers fun hc => ?_
    split
    · exact ⟨_, rfl⟩
    · rename_i hfull
      exact frameComplete_answers hstored hsup hlo (hhi.trans (rxMax_le_cap _))
        (Nat.le_antisymm hcount (Nat.le_of_not_lt hfull))

/-! ### A SUBMIT leaves alone what is beside the decoder -/

/-- The decoder of `s` beside the rest of `r`: TXBUF, ACC and the commands still to come. -/
def State.beside (s r : State) : State := { s with txbuf := r.txbuf, acc := r.acc, cmds := r.cmds }

@[simp] theorem State.beside_cfg (s r : State) : (s.beside r).cfg = s.cfg := rfl
@[simp] theorem State.beside_state (s r : State) : (s.beside r).state = s.state := rfl
@[simp] theorem State.beside_count (s r : State) : (s.beside r).count = s.count := rfl
@[simp] theorem State.beside_pktlen (s r : State) : (s.beside r).pktlen = s.pktlen := rfl
@[simp] theorem State.beside_alg (s r : State) : (s.beside r).alg = s.alg := rfl

/-- The same outcome with the next state beside the rest of `r`; a stop stays. -/
def besideOf (r : State) (o : Result) : Result := andThen o fun t => .next (t.beside r)

@[simp] theorem besideOf_next (r t : State) : besideOf r (.next t) = .next (t.beside r) := rfl
@[simp] theorem besideOf_fault (r : State) (e : Fault) : besideOf r (.fault e) = .fault e := rfl
@[simp] theorem besideOf_refused (r : State) (e : Refusal) : besideOf r (.refused e) = .refused e := rfl

theorem push_beside {b : Byte} {k : State → Result} {s r : State}
    (hk : k ((s.store b).beside r) = besideOf r (k (s.store b))) :
    push b k (s.beside r) = besideOf r (push b k s) := by
  rcases Nat.lt_or_ge s.cfg.rxCap (s.count + 1) with hc | hc
  · rw [push_overflow hc, push_overflow (s := s.beside r) hc]; rfl
  · rw [push_store hc, push_store (s := s.beside r) hc]; exact hk

theorem rxRead_beside (s r : State) (i : Nat) : rxRead (s.beside r) i = rxRead s i := rfl

theorem rxSpan_beside (s r : State) (i n : Nat) : rxSpan (s.beside r) i n = rxSpan s i n :=
  rxSpan_congr i n rfl rfl fun _ _ => rfl

theorem validate_beside (s r : State) (len cl : Nat) : validate (s.beside r) len cl = validate s len cl := by
  simp only [validate, rxSpan_beside, State.beside_alg, State.beside_cfg]
  rfl

theorem frameComplete_beside (s r : State) : frameComplete (s.beside r) = besideOf r (frameComplete s) := by
  simp only [frameComplete, validate_beside, rxSpan_beside, State.beside_alg, State.beside_cfg, State.beside_pktlen]
  split
  · rfl
  · split
    · rfl
    · split
      · rfl
      · rfl
      · split <;> rfl

theorem acceptHeader_beside (f h l : Byte) (s r : State) :
    acceptHeader f h l (s.beside r) = besideOf r (acceptHeader f h l s) := by
  cases hs : supported (hiNibble f) with
  | false => rw [acceptHeader_unsupported hs, acceptHeader_unsupported hs]; rfl
  | true =>
    by_cases hbad : be16 h l < s.cfg.headerLen + checkLen (hiNibble f) ∨ s.cfg.rxMax < be16 h l
    · rw [acceptHeader_badLength hs hbad, acceptHeader_badLength (s := s.beside r) hs hbad]; rfl
    · obtain ⟨hlo, hhi⟩ : s.cfg.headerLen + checkLen (hiNibble f) ≤ be16 h l ∧ be16 h l ≤ s.cfg.rxMax := by omega
      by_cases hc : s.count = be16 h l
      · rw [acceptHeader_complete hs hlo hhi hc, acceptHeader_complete (s := s.beside r) hs hlo hhi hc]
        exact frameComplete_beside { s with alg := hiNibble f, pktlen := be16 h l } r
      · rw [acceptHeader_latch hs hlo hhi hc, acceptHeader_latch (s := s.beside r) hs hlo hhi hc]; rfl

theorem headerCheck_beside (s r : State) : headerCheck (s.beside r) = besideOf r (headerCheck s) := by
  simp only [headerCheck, rxRead_beside, acceptHeader_beside, State.beside_cfg]
  split
  · rfl
  · split
    · rfl
    · split <;> rfl

/-- SUBMIT neither reads nor writes TXBUF, ACC and the command stream. -/
theorem submitByte_beside (b : Byte) (s r : State) : submitByte b (s.beside r) = besideOf r (submitByte b s) := by
  rw [submitByte, submitByte, State.beside_state]
  split
  · rw [idleArm, idleArm, State.beside_cfg]
    split
    · rfl
    · refine push_beside ?_
      rw [State.beside_cfg]
      split <;> rfl
  · rw [syncPartialArm, syncPartialArm, State.beside_cfg]
    split
    · rfl
    · exact push_beside rfl
  · refine push_beside ?_
    rw [State.beside_count, State.beside_cfg, headerCheck_beside]
    split <;> rfl
  · refine push_beside ?_
    rw [State.beside_count, State.beside_pktlen, frameComplete_beside]
    split <;> rfl

/-! ### An ENCODE looks at its operands and the configuration -/

/-- On all states of one configuration an ENCODE puts out the same result and does the same to TXBUF (42 R179). -/
theorem encodeOp_uniform (a : Nibble) (p : List Byte) (c : Config) :
    ∃ (o : Output) (f : Memory → Memory), ∀ s : State, s.cfg = c →
      encodeOp a p s = .next { s with txbuf := f s.txbuf, out := o } := by
  by_cases hs : supported a = true
  · by_cases ht : c.txCap < packetLen c a p
    · exact ⟨{ encResult := some .fail, cause := some .outputCapacityExceeded }, id,
        by rintro s rfl; simp [encodeOp, encodeFail, hs, ht]⟩
    · by_cases hp : c.protoMax.toNat < packetLen c a p
      · exact ⟨{ encResult := some .fail, cause := some .protocolMaxExceeded }, id,
          by rintro s rfl; simp [encodeOp, encodeFail, hs, ht, hp]⟩
      · exact ⟨{ encResult := some (.ok (packetLen c a p)) }, fun m => Memory.writeAll m 0 (encodedFrame c a p),
          by rintro s rfl; simp [encodeOp, hs, ht, hp]⟩
  · exact ⟨{ encResult := some .fail, cause := some .unsupportedAlgorithm }, id,
      by rintro s rfl; simp [encodeOp, encodeFail, hs]⟩

/-- Settles O43: the SUBMIT works beside TXBUF and reads no outputs, and the ENCODE finds the configuration and TXBUF of before
the SUBMIT. -/
theorem submitAndEncodeCommute : Obligations.SubmitAndEncodeCommute := by
  intro s a p b hi
  obtain ⟨u, hu⟩ := submitByte_answers hi b
  obtain ⟨hcfg, htx, hacc, hcmds⟩ := submitByte_keeps hu
  obtain ⟨o, f, henc⟩ := encodeOp_uniform a p s.cfg
  let x : State := { s with txbuf := f s.txbuf, out := o }
  have hy : submitByte b x = .next (u.beside x) := by
    calc submitByte b x = submitByte b (s.beside x) := submitByte_withOut b (s.beside x) o
      _ = .next (u.beside x) := by rw [submitByte_beside, hu, besideOf_next]
  refine ⟨u, _, x, _, hu, henc u hcfg, henc s rfl, hy, rfl, rfl, ?_⟩
  simp only [State.beside, x, ← htx, ← hacc, ← hcmds]

end Sys2Proof.Machine
end

section
/-! The command encoding: what the encoder writes for a row, with any bytes after it, decodes to that row (30 section 5; log
entries 4 and 5). -/

namespace Sys2Proof

/-! ### The formats, one by one -/

/-- A FMT command decodes to the row of its identifier (30 R89). -/
theorem decode_fmtCommand (a r : Nibble) (rest : List Byte) :
    decode (fmtCommand a r ++ rest) = .ok (fmtInstr a r, rest) := by
  simp [fmtCommand, decode]

/-- A selector of ENCODE_ALG and a payload decode to the row of the selector (42 R172). -/
theorem decode_encodeAlgCommand (a : Nibble) {p : List Byte} (h : lengthFits p = true) (rest : List Byte) :
    decode (encodeAlgCommand a p ++ rest) = .ok (encodeInstr a p, rest) := by
  have hp : p.length < 65536 := of_decide_eq_true h
  change decodeEncodeAlg (fmtByte 0 a) (payloadBytes p ++ rest) = _
  simp [decodeEncodeAlg, takePayload_bytes hp]

/-- The same payload under the operation selector 2: ENCODE with its selector an operand (30 R95). -/
theorem decode_encodeOpCommand (a : Nibble) {p : List Byte} (h : lengthFits p = true) (rest : List Byte) :
    decode (2 :: 0 :: fmtByte 0 a :: payloadBytes p ++ rest) = .ok (.encode a p, rest) := by
  have hp : p.length < 65536 := of_decide_eq_true h
  change decodeOp 2 (fmtByte 0 a :: (payloadBytes p ++ rest)) = _
  simp [decodeOp, takeByte, takePayload_bytes hp]

/-- A frame's length field and body: the length counts the header's `hl` bytes (30 R84). -/
theorem decodeFrame_bytes {hl : Nat} {body : List Byte} (h : frameFits hl body = true) (mk : List Byte → Instr)
    (rest : List Byte) :
    decodeFrame hl mk (hiByte (hl + body.length) :: loByte (hl + body.length) :: (body ++ rest)) =
      .ok (mk body, rest) := by
  rw [decodeFrame, takeLen_bytes (of_decide_eq_true h), if_neg (by omega), Nat.add_sub_cancel_left, takeBytes_append]

/-- Settles O1, by the row: each format's command is read back by the lemma of its format. -/
theorem decodeOfEncodeIsIdentity : Obligations.DecodeOfEncodeIsIdentity := by
  intro i bs rest hwf henc
  cases i with
  | nop | reset | submit b | submitIdle b | submitSyncPartial b | submitHeader b | submitBody b => cases henc; rfl
  | encode a p => cases henc; exact decode_encodeOpCommand a hwf rest
  | fmtNone r | fmtSum8 r | fmtSum16 r | fmtCrc16 r | fmtCrc32 r | fmtUnrecognized5 r | fmtUnrecognized6 r
  | fmtUnrecognized7 r | fmtUnrecognized8 r | fmtUnrecognized9 r | fmtUnrecognized10 r | fmtUnrecognized11 r
  | fmtUnrecognized12 r | fmtUnrecognized13 r | fmtUnrecognized14 r | fmtUnrecognized15 r =>
    cases henc; exact decode_fmtCommand _ r rest
  | encodeNone p | encodeSum8 p | encodeSum16 p | encodeUnsupported3 p | encodeUnsupported4 p | encodeUnsupported5 p
  | encodeUnsupported6 p | encodeUnsupported7 p | encodeUnsupported8 p | encodeUnsupported9 p | encodeUnsupported10 p
  | encodeUnsupported11 p | encodeUnsupported12 p | encodeUnsupported13 p | encodeUnsupported14 p
  | encodeUnsupported15 p =>
    cases henc; exact decode_encodeAlgCommand _ hwf rest
  | frameF2 fmt body => cases henc; exact decodeFrame_bytes hwf (.frameF2 fmt) rest
  | frameF1 fmt body => cases henc; exact decodeFrame_bytes hwf (.frameF1 fmt) rest
  | push b | headerCheck | frameComplete | deliver p | resetToIdle | checkLen a | ck a span | ckInit | ckUpdate b
  | ckFinal a => cases henc

/-- Settles O3: the words are fixed, so the decoder is run on each. -/
theorem tableWordsDecodeToTheirRows : Obligations.TableWordsDecodeToTheirRows := by
  unfold Obligations.TableWordsDecodeToTheirRows
  and_intros <;> decide

end Sys2Proof
end

section
/-! Format bytes on the wire (30 R83, R89, R90): a format byte row is the SUBMIT of its byte, and after the sync bytes the three
header bytes reach the header tests. -/

namespace Sys2Proof.Machine

/-- Settles O7: NOP clears the outputs and does nothing else. -/
theorem nopChangesNothing : Obligations.NopChangesNothing := fun _ => rfl

/-! ### Bytes of the header and the body -/

section
variable {s : State} {b : Byte}

/-- A header byte with more of the header to come (41 R135). -/
theorem submitByte_header_store (hs : s.state = .headerPending) (hc : s.count + 1 ≤ s.cfg.rxCap)
    (hl : s.count + 1 < s.cfg.headerLen) : submitByte b s = .next ((s.store b).emit .hdr) := by
  rw [submitByte, hs]
  exact (push_store hc).trans (if_pos hl)

/-- The last header byte runs HEADER_CHECK (41 R135). -/
theorem submitByte_header_check (hs : s.state = .headerPending) (hc : s.count + 1 ≤ s.cfg.rxCap)
    (hl : s.cfg.headerLen ≤ s.count + 1) : submitByte b s = headerCheck (s.store b) := by
  rw [submitByte, hs]
  exact (push_store hc).trans (if_neg (Nat.not_lt.2 hl))

/-- A body byte with more of the frame to come (41 R136). -/
theorem submitByte_body_store (hs : s.state = .bodyPending) (hc : s.count + 1 ≤ s.cfg.rxCap)
    (hl : s.count + 1 < s.pktlen) : submitByte b s = .next ((s.store b).emit .body) := by
  rw [submitByte, hs]
  exact (push_store hc).trans (if_pos hl)

/-- The last body byte runs FRAME_COMPLETE (41 R136). -/
theorem submitByte_body_complete (hs : s.state = .bodyPending) (hc : s.count + 1 ≤ s.cfg.rxCap)
    (hl : s.pktlen ≤ s.count + 1) : submitByte b s = frameComplete (s.store b) := by
  rw [submitByte, hs]
  exact (push_store hc).trans (if_neg (Nat.not_lt.2 hl))

/-- The sink receives what this SUBMIT delivers and nothing else (41 R150). -/
theorem submitByte_sink {t : State} (h : submitByte b s = .next t) : t.sink = s.sink ++ t.out.deliver.toList := by
  cases submitByte_effect h <;> simp

end

/-! ### A stream of bytes and the invariant -/

/-- No stream of bytes stops the decoder, and the invariant holds after it (41 R130). -/
theorem feed_answers (bs : List Byte) {s : State} (hi : s.Inv) : ∃ t, feed bs s = .next t ∧ t.Inv := by
  induction bs generalizing s with
  | nil => exact ⟨s, rfl, hi⟩
  | cons b bs ih =>
    obtain ⟨u, hu⟩ := submitByte_answers hi b
    rw [feed_cons, hu]
    exact ih (submitByte_inv hi hu)

/-! ### The format byte rows -/

/-- A row of format FMT is the SUBMIT of its byte (log entry 8). -/
theorem exec_of_fmtRow {a r : Nibble} {i : Instr} (h : (a, i) ∈ fmtRows r) (s : State) :
    exec i s = submitByte (fmtByte a r) s := by
  have hrows : (fmtRows r).Forall fun x => exec x.2 s = submitByte (fmtByte x.1 r) s := by
    and_intros <;> rfl
  exact List.forall_iff_forall_mem.1 hrows _ h

/-- The format byte as a number (30 R85). -/
theorem fmtByte_eq_ofNat (a r : Nibble) : fmtByte a r = BitVec.ofNat 8 (a.toNat * 16 + r.toNat) := by
  rw [← toNat_fmtByte, BitVec.ofNat_toNat, BitVec.setWidth_eq]

/-- Settles O30: the row's byte, SUBMIT in the invariant, and the header arm below the end of the header. -/
theorem formatRowsSubmitTheirByte : Obligations.FormatRowsSubmitTheirByte := by
  intro s a r i hrow
  rw [exec_of_fmtRow hrow, ← fmtByte_eq_ofNat]
  refine ⟨rfl, fun hi => ?_, fun hs hn hc => ?_⟩
  · obtain ⟨t, ht⟩ := submitByte_answers hi (fmtByte a r)
    exact ⟨t, ht, submitByte_inv hi ht⟩
  · exact submitByte_header_store hs hc (by rw [headerLen_eq]; omega)

/-! ### The format byte and the two length bytes -/

/-- The format byte `f` and the high length byte `h` stored after the sync bytes. -/
def State.withFmtAndLenHi (s : State) (f h : Byte) : State := (((s.store f).emit .hdr).store h).emit .hdr

section
variable {s : State} (f h l : Byte) (hs : s.state = .headerPending) (hn : s.count = s.cfg.nsync.toNat)
  (hcap : s.cfg.headerLen ≤ s.cfg.rxCap)
include hs hn hcap

theorem feed_fmtAndLenHi : feed [f, h] s = .next (s.withFmtAndLenHi f h) := by
  rw [headerLen_eq] at hcap
  have hfmt : submitByte f s = .next ((s.store f).emit .hdr) :=
    submitByte_header_store hs (by omega) (by rw [headerLen_eq]; omega)
  rw [feed_cons, hfmt, andThen_of_next, feed_one]
  exact submitByte_header_store (s := (s.store f).emit .hdr) hs (by simp; omega) (by simp [headerLen_eq]; omega)

/-- The low length byte completes the header, and HEADER_CHECK reads the three bytes back (41 R140). -/
theorem submitByte_lenLo : submitByte l (s.withFmtAndLenHi f h) =
    acceptHeader f h l ((s.withFmtAndLenHi f h).store l) := by
  have hcount : (s.withFmtAndLenHi f h).count = s.cfg.nsync.toNat + 2 := congrArg (· + 2) hn
  have hcfg : (s.withFmtAndLenHi f h).cfg = s.cfg := rfl
  have hrx : (s.withFmtAndLenHi f h).rxbuf =
      Memory.write (Memory.write s.rxbuf s.cfg.nsync.toNat f) (s.cfg.nsync.toNat + 1) h := by rw [← hn]; rfl
  rw [headerLen_eq] at hcap
  rw [submitByte_header_check (s := s.withFmtAndLenHi f h) hs (by rw [hcfg]; omega) (by rw [headerLen_eq, hcfg]; omega)]
  refine headerCheck_of_reads ?_ ?_ ?_ ?_ ?_ <;>
    simp only [State.store_cfg, State.store_count, State.store_rxbuf, hcfg, hcount, hrx]
  · omega
  · omega
  · simp [Memory.read_write]
  · simp [Memory.read_write]
  · simp

end

/-- Settles O31: the row and the length bytes reach the header tests with the row's identifier, whatever the reserved nibble. -/
theorem formatByteSelectsTheAlgorithm : Obligations.FormatByteSelectsTheAlgorithm := by
  intro s a r h l i hrow hi hs hn hcap
  have hfeed := feed_fmtAndLenHi (fmtByte a r) h hs hn hcap
  have hlast := submitByte_lenLo (fmtByte a r) h l hs hn hcap
  obtain ⟨u, hu, hinv⟩ := feed_answers [fmtByte a r, h] hi
  cases hfeed.symm.trans hu
  obtain ⟨t, ht⟩ := submitByte_answers hinv l
  have hrun : execAll [i, .submit h, .submit l] s = .next t := by
    calc execAll [i, .submit h, .submit l] s = feed ([fmtByte a r, h] ++ [l]) s := by
          rw [execAll, exec_of_fmtRow hrow]; rfl
      _ = .next t := by rw [feed_append, hu, andThen_of_next, feed_one, ht]
  refine ⟨t, hrun, (submitByte_sink ht :), fun ha => ?_, fun ha hlo hne hhi => ?_⟩
  · have hsup : supported (hiNibble (fmtByte a r)) = false := by
      rw [hiNibble_fmtByte]
      exact Bool.eq_false_iff.2 fun hsup => absurd (supported_iff_toNat_le.1 hsup) (Nat.not_le.2 ha)
    rw [hlast, acceptHeader_unsupported hsup] at ht
    cases ht
    exact ⟨rfl, rfl⟩
  · rw [hlast, acceptHeader_latch] at ht
    · cases ht
      exact ⟨rfl, rfl, hiNibble_fmtByte a r, rfl⟩
    · rw [hiNibble_fmtByte]; exact supported_iff_toNat_le.2 ha
    · rw [hiNibble_fmtByte]; exact hlo
    · exact hhi
    · have hcount : ((s.withFmtAndLenHi (fmtByte a r) h).store l).count = s.cfg.headerLen := congrArg (· + 3) hn
      omega

/-! ### The frame rows -/

theorem exec_frameF2 (fmt : Byte) (body : List Byte) (s : State) : exec (.frameF2 fmt body) s =
    feed (s.cfg.sync1 :: s.cfg.sync2 :: fmt :: hiByte (5 + body.length) :: loByte (5 + body.length) :: body) s :=
  submitAll_feed _ s

theorem exec_frameF1 (fmt : Byte) (body : List Byte) (s : State) : exec (.frameF1 fmt body) s =
    feed (s.cfg.sync1 :: fmt :: hiByte (4 + body.length) :: loByte (4 + body.length) :: body) s :=
  submitAll_feed _ s

/-- Settles O32: a frame row feeds its bytes, and no stream stops in the invariant. -/
theorem frameRowsSubmitTheirBytes : Obligations.FrameRowsSubmitTheirBytes := by
  intro s fmt body
  rw [exec_frameF2, exec_frameF1]
  exact ⟨rfl, rfl, feed_answers _, feed_answers _⟩

end Sys2Proof.Machine
end

section
/-! A well-formed frame fed to a decoder in Idle (30 R98, 41 R158): the state after each of its bytes, and the delivery on the
last. -/

namespace Sys2Proof.Machine

/-! ### The state in the middle of a frame -/

/-- STATE with `k` bytes of a frame collected (41 R131). -/
def framePhase (c : Config) (k : Nat) : DecoderState :=
  if k = 0 then .idle
  else if k < c.nsync.toNat then .syncPartial
  else if k < c.headerLen then .headerPending
  else .bodyPending

/-- An idle decoder after the first `k` bytes of the frame `f`: they are stored, and from HEADERLEN on the header is latched. -/
def State.midFrame (s : State) (f : List Byte) (k : Nat) : State :=
  { s with
    state := framePhase s.cfg k
    count := k
    pktlen := if k < s.cfg.headerLen then 0 else f.length
    alg := if k < s.cfg.headerLen then 0 else frameAlg s.cfg f
    rxbuf := Memory.writeAll s.rxbuf 0 (f.take k) }

/-- An idle decoder after the whole frame `f`: its payload delivered, the registers as before (41 R148, R150). -/
def State.afterFrame (s : State) (f : List Byte) : State :=
  { s with rxbuf := Memory.writeAll s.rxbuf 0 f }.deliver (framePayload s.cfg f)

@[simp] theorem State.midFrame_cfg (s : State) (f : List Byte) (k : Nat) : (s.midFrame f k).cfg = s.cfg := rfl
@[simp] theorem State.midFrame_count (s : State) (f : List Byte) (k : Nat) : (s.midFrame f k).count = k := rfl
@[simp] theorem State.midFrame_sink (s : State) (f : List Byte) (k : Nat) : (s.midFrame f k).sink = s.sink := rfl

theorem framePhase_header {c : Config} {k : Nat} (hlo : c.nsync.toNat ≤ k) (hhi : k < c.headerLen) :
    framePhase c k = .headerPending := by
  have := nsync_pos c
  rw [framePhase, if_neg (by omega), if_neg (by omega), if_pos hhi]

theorem framePhase_body {c : Config} {k : Nat} (h : c.headerLen ≤ k) : framePhase c k = .bodyPending := by
  rw [headerLen_eq] at h
  rw [framePhase, if_neg (by omega), if_neg (by omega), if_neg (by rw [headerLen_eq]; omega)]

theorem framePhase_sync {c : Config} {k : Nat} (hpos : 0 < k) (h : k < c.nsync.toNat) : framePhase c k = .syncPartial := by
  rw [framePhase, if_neg hpos.ne', if_pos h]

theorem nsync_eq_two_of_lt {n : NSync} (h : 1 < n.toNat) : n = .two := by
  cases n with
  | one => exact absurd h (by decide)
  | two => rfl

/-- SYNC1 in Idle, with room (41 R133). -/
theorem submitByte_sync1 {s : State} (hs : s.state = .idle) (hc : s.count + 1 ≤ s.cfg.rxCap) :
    submitByte s.cfg.sync1 s = .next ({ s.store s.cfg.sync1 with state := framePhase s.cfg 1 }.emit .sync1) := by
  rw [submitByte, hs]
  refine (if_neg (not_not_intro rfl)).trans ((push_store hc).trans ?_)
  rw [State.store_cfg]
  split
  · rename_i h2
    rw [framePhase_sync Nat.one_pos (by rw [h2]; decide)]
    rfl
  · rename_i h1
    rw [framePhase_header (by rw [h1]; decide) (by rw [headerLen_eq]; omega)]
    rfl

/-- SYNC2 in SyncPartial, with room (41 R134). -/
theorem submitByte_sync2 {s : State} (hs : s.state = .syncPartial) (hc : s.count + 1 ≤ s.cfg.rxCap) :
    submitByte s.cfg.sync2 s = .next ({ s.store s.cfg.sync2 with state := .headerPending }.emit .sync2) := by
  rw [submitByte, hs]
  exact (if_neg (not_not_intro rfl)).trans (push_store hc)

/-- A run of writes, cut in two. -/
theorem Memory.writeAll_append (xs ys : List Byte) (m : Memory) (a : Nat) :
    Memory.writeAll m a (xs ++ ys) = Memory.writeAll (Memory.writeAll m a xs) (a + xs.length) ys := by
  induction xs generalizing m a with
  | nil => rfl
  | cons x xs ih =>
    rw [List.cons_append, Memory.writeAll, Memory.writeAll, ih, List.length_cons, Nat.add_right_comm, Nat.add_assoc]

/-- Storing the next byte of a frame. -/
theorem write_writeAll_take (m : Memory) {f : List Byte} {k : Nat} (hk : k < f.length) :
    Memory.write (Memory.writeAll m 0 (f.take k)) k (f.getD k 0) = Memory.writeAll m 0 (f.take (k + 1)) := by
  rw [List.take_add_one, List.getElem?_eq_getElem hk, Option.toList_some, Memory.writeAll_append,
    List.length_take_of_le hk.le, Nat.zero_add, List.getD_eq_getElem _ _ hk]
  rfl

/-- In the middle of a frame its bytes so far are stored. -/
theorem read_writeAll_take (m : Memory) {f : List Byte} {k : Nat} (hk : k ≤ f.length) {i : Nat} (hi : i < k) :
    Memory.read (Memory.writeAll m 0 (f.take k)) i = f[i]? := by
  rw [Memory.read_writeAll, List.length_take_of_le hk, if_pos ⟨i.zero_le, by omega⟩, Nat.sub_zero,
    List.getElem?_take_of_lt hi]

/-! ### The checks of a well-formed frame -/

section
variable {c : Config} {f : List Byte} (hf : FrameWf c f)
include hf

/-- The frame begins with the sync bytes of the configuration (30 R98, clause 2). -/
theorem FrameWf.getD_sync {k : Nat} (hk : k < c.nsync.toNat) : f.getD k 0 = (syncBytes c).getD k 0 := by
  rw [← hf.sync, List.getD, List.getD, List.getElem?_take_of_lt hk]

theorem FrameWf.getD_sync1 : f.getD 0 0 = c.sync1 := by
  rw [hf.getD_sync (nsync_pos c), syncBytes]
  split <;> rfl

theorem FrameWf.getD_sync2 (h2 : c.nsync = .two) : f.getD 1 0 = c.sync2 := by
  rw [hf.getD_sync (by rw [h2]; decide), syncBytes, h2]
  rfl

/-- RXBUF has room for the frame (30 R98, clause 5). -/
theorem FrameWf.le_rxCap : f.length ≤ c.rxCap := hf.bounds.2.trans (rxMax_le_cap c)

/-- The check field of a well-formed frame fits. -/
theorem FrameWf.checkFits : CheckFits c (frameAlg c f) f := by
  have ha : supported (frameAlg c f) = true := hf.alg
  have hlen : checkLen (frameAlg c f) ≤ f.length := (Nat.le_add_left ..).trans hf.bounds.1
  rw [checkFits_iff ha hlen, or_iff_not_imp_left]
  intro h0
  have hfield : slice f (f.length - checkLen (frameAlg c f)) f.length = f.drop (f.length - checkLen (frameAlg c f)) := by
    rw [slice, List.take_of_length_le (by simp)]
  rw [hfield]
  refine hf.check fun hcl => h0 (BitVec.eq_of_toNat_eq ?_)
  rwa [← frameAlg, checkLen_supported ha] at hcl

end

/-! ### One byte of a frame -/

section
variable {s : State} {f : List Byte} {k : Nat} (hk : k < f.length)
include hk

/-- A byte before the end of the header moves STATE and is stored. -/
theorem State.midFrame_store_header (hh : k + 1 < s.cfg.headerLen) :
    { (s.midFrame f k).store (f.getD k 0) with state := framePhase s.cfg (k + 1) } = s.midFrame f (k + 1) := by
  simp only [State.store, State.midFrame, write_writeAll_take _ hk, if_pos hh, if_pos (Nat.lt_of_succ_lt hh)]

/-- The last byte of the header is stored, and the header latched. -/
theorem State.midFrame_store_latch (hh : k + 1 = s.cfg.headerLen) :
    { (s.midFrame f k).store (f.getD k 0) with alg := frameAlg s.cfg f, pktlen := f.length, state := .bodyPending } =
      s.midFrame f (k + 1) := by
  simp only [State.store, State.midFrame, write_writeAll_take _ hk, if_neg (Nat.not_lt.2 hh.ge), framePhase_body hh.ge]

/-- A byte after the header is stored. -/
theorem State.midFrame_store_body (hh : s.cfg.headerLen ≤ k) :
    (s.midFrame f k).store (f.getD k 0) = s.midFrame f (k + 1) := by
  simp only [State.store, State.midFrame, write_writeAll_take _ hk, if_neg (Nat.not_lt.2 hh),
    if_neg (Nat.not_lt.2 (Nat.le_succ_of_le hh)), framePhase_body hh, framePhase_body (Nat.le_succ_of_le hh)]

/-- With one byte more, the bytes so far are stored. -/
theorem State.read_midFrame_store {i : Nat} (hi : i < k + 1) :
    Memory.read ((s.midFrame f k).store (f.getD k 0)).rxbuf i = f[i]? := by
  rw [State.store_rxbuf, State.midFrame_count, State.midFrame, write_writeAll_take _ hk, read_writeAll_take _ hk hi]

end

/-- The reset to Idle changes nothing in Idle (10 R34). -/
theorem State.Inv.toIdle_eq {s : State} (hi : s.Inv) (hs : s.state = .idle) : s.toIdle = s := by
  cases s
  cases hs
  obtain ⟨⟨⟩, ⟨⟩, ⟨⟩⟩ := hi.phase
  rfl

/-- Before its first byte the decoder has collected nothing of a frame. -/
theorem State.Inv.midFrame_zero {s : State} (hi : s.Inv) (hs : s.state = .idle) (f : List Byte) : s.midFrame f 0 = s := by
  have hpos : 0 < s.cfg.headerLen := Nat.succ_pos _
  calc s.midFrame f 0 = s.toIdle := by simp [State.midFrame, State.toIdle, framePhase, hpos, Memory.writeAll]
    _ = s := hi.toIdle_eq hs

section
variable {s : State} {f : List Byte} (hf : FrameWf s.cfg f)
include hf

/-- The byte that completes the header brings the frame's own fields to the header tests (41 R140). -/
theorem submitByte_midFrame_header {k : Nat} (hk : k + 1 = s.cfg.headerLen) :
    ∃ fmt h l, hiNibble fmt = frameAlg s.cfg f ∧ be16 h l = f.length ∧
      submitByte (f.getD k 0) (s.midFrame f k) = acceptHeader fmt h l ((s.midFrame f k).store (f.getD k 0)) := by
  have hlong := hf.long
  have hcap := hf.le_rxCap
  have hlen : s.cfg.headerLen = s.cfg.nsync.toNat + 3 := rfl
  have hr (i : Nat) (hi : i < k + 1) : Memory.read ((s.midFrame f k).store (f.getD k 0)).rxbuf i = some (f.getD i 0) := by
    rw [State.read_midFrame_store (by omega) hi, List.getD, List.getElem?_eq_getElem (by omega)]
    rfl
  refine ⟨_, _, _, rfl, hf.lenField, ?_⟩
  rw [submitByte_header_check (framePhase_header (by omega) (by omega)) (by simp; omega) (by simp; omega)]
  exact headerCheck_of_reads (by simp; omega) (by simp; omega) (hr _ (by simp; omega)) (hr _ (by simp; omega))
    (hr _ (by simp; omega))

/-- A byte of a well-formed frame before the end of the header: SYNC1, SYNC2 or a header byte (41 R133 to R135). -/
theorem submitByte_midFrame_beforeHeader {k : Nat} (hk : k + 1 < s.cfg.headerLen) :
    ∃ e, submitByte (f.getD k 0) (s.midFrame f k) = .next ((s.midFrame f (k + 1)).emit e) := by
  have hlong := hf.long
  have hcap : k + 1 ≤ s.cfg.rxCap := (hk.le.trans hf.long).trans hf.le_rxCap
  have hn := nsync_le s.cfg
  rw [← State.midFrame_store_header (by omega) hk]
  obtain rfl | hpos := Nat.eq_zero_or_pos k
  · rw [hf.getD_sync1]
    exact ⟨.sync1, submitByte_sync1 (s := s.midFrame f 0) rfl hcap⟩
  · by_cases hsync : k < s.cfg.nsync.toNat
    · obtain rfl : k = 1 := by omega
      rw [hf.getD_sync2 (nsync_eq_two_of_lt hsync), framePhase_header hn hk]
      exact ⟨.sync2, submitByte_sync2 (s := s.midFrame f 1) (framePhase_sync hpos hsync) hcap⟩
    · have hphase : framePhase s.cfg k = .headerPending := framePhase_header (by omega) (by omega)
      rw [framePhase_header (by omega) hk, ← hphase]
      exact ⟨.hdr, submitByte_header_store hphase hcap hk⟩

/-- Each byte of a well-formed frame but the last brings the decoder one byte further (41 R133 to R136). -/
theorem submitByte_midFrame {k : Nat} (hk : k + 1 < f.length) :
    ∃ e, submitByte (f.getD k 0) (s.midFrame f k) = .next ((s.midFrame f (k + 1)).emit e) := by
  have hk' : k < f.length := by omega
  obtain hh | hh | hh : k + 1 < s.cfg.headerLen ∨ k + 1 = s.cfg.headerLen ∨ s.cfg.headerLen ≤ k := by omega
  · exact submitByte_midFrame_beforeHeader hf hh
  · obtain ⟨fmt, h, l, halg, hlenField, hrun⟩ := submitByte_midFrame_header hf hh
    refine ⟨.hdrOk, ?_⟩
    rw [hrun, acceptHeader_latch (halg ▸ hf.alg) (hlenField ▸ halg ▸ hf.bounds.1) (hlenField ▸ hf.bounds.2)
      (hlenField ▸ hk.ne), halg, hlenField, ← State.midFrame_store_latch hk' hh]
    rfl
  · have hlen : (s.midFrame f k).pktlen = f.length := if_neg (Nat.not_lt.2 hh)
    refine ⟨.body, ?_⟩
    rw [submitByte_body_store (framePhase_body hh) (hk.le.trans hf.le_rxCap) (hlen.symm ▸ hk),
      State.midFrame_store_body hk' hh]

/-- FRAME_COMPLETE on a well-formed frame, stored and latched, delivers its payload, whichever arm runs it. -/
theorem frameComplete_midFrame (st : DecoderState) :
    frameComplete { s.midFrame f f.length with state := st } = .next (s.toIdle.afterFrame f) := by
  have hcap := hf.le_rxCap
  have hr (i : Nat) (hi : i < f.length) : Memory.read (Memory.writeAll s.rxbuf 0 f) i = f[i]? := by
    simpa using read_writeAll_take s.rxbuf le_rfl hi
  simp only [State.midFrame, if_neg (Nat.not_lt.2 hf.long), List.take_length]
  exact frameComplete_of_fits rfl hcap hr hf.alg hf.bounds.1 (.inl le_rfl) hf.checkFits

/-- The last byte of a well-formed frame delivers its payload, in the header arm or in the body arm (41 R144, R145). -/
theorem submitByte_midFrame_last {k : Nat} (hk : k + 1 = f.length) :
    submitByte (f.getD k 0) (s.midFrame f k) = .next (s.toIdle.afterFrame f) := by
  have hk' : k < f.length := by omega
  have hcap : k + 1 ≤ s.cfg.rxCap := hk.le.trans hf.le_rxCap
  have hlong := hf.long
  obtain hh | hh : k + 1 = s.cfg.headerLen ∨ s.cfg.headerLen ≤ k := by omega
  · obtain ⟨fmt, h, l, halg, hlenField, hrun⟩ := submitByte_midFrame_header hf hh
    rw [hrun, acceptHeader_complete (halg ▸ hf.alg) (hlenField ▸ halg ▸ hf.bounds.1) (hlenField ▸ hf.bounds.2)
      (hk.trans hlenField.symm), halg, hlenField, ← frameComplete_midFrame hf (framePhase s.cfg k), ← hk,
      ← State.midFrame_store_latch hk' hh, hk]
    rfl
  · have hlen : (s.midFrame f k).pktlen = f.length := if_neg (Nat.not_lt.2 hh)
    rw [submitByte_body_complete (framePhase_body hh) hcap (hlen.trans hk.symm).le, State.midFrame_store_body hk' hh, hk]
    exact frameComplete_midFrame hf (s.midFrame f f.length).state

/-- After `k` bytes of a well-formed frame, the last not among them, the decoder has collected them and delivered nothing. -/
theorem feed_take_wellFormed (hi : s.Inv) (hs : s.state = .idle) {k : Nat} (hk : k < f.length) :
    ∃ o, feed (f.take k) s = .next ((s.midFrame f k).withOut o) := by
  induction k with
  | zero => exact ⟨s.out, by rw [hi.midFrame_zero hs]; rfl⟩
  | succ k ih =>
    obtain ⟨o, ho⟩ := ih (by omega)
    obtain ⟨e, he⟩ := submitByte_midFrame hf hk
    refine ⟨{ event := some e }, ?_⟩
    rw [feed_take (by omega), ho, andThen_of_next, submitByte_withOut, he]
    rfl

/-- A well-formed frame fed to an idle decoder is delivered (41 R158). -/
theorem feed_wellFormed (hi : s.Inv) (hs : s.state = .idle) : feed f s = .next (s.afterFrame f) := by
  obtain ⟨k, hk⟩ : ∃ k, k + 1 = f.length := ⟨f.length - 1, by have := hf.long; rw [headerLen_eq] at this; omega⟩
  obtain ⟨o, ho⟩ := feed_take_wellFormed hf hi hs (k := k) (by omega)
  calc feed f s = feed (f.take (k + 1)) s := by rw [hk, List.take_length]
    _ = submitByte (f.getD k 0) (s.midFrame f k) := by
      rw [feed_take (by omega), ho, andThen_of_next, submitByte_withOut]
    _ = .next (s.afterFrame f) := by rw [submitByte_midFrame_last hf hk, hi.toIdle_eq hs]

end

end Sys2Proof.Machine
end

section
/-! The frame of a payload (30 R81 to R87): its parts, and that it is well-formed when its length is within bounds. -/

namespace Sys2Proof.Machine

/-- Format byte, length field and payload: the bytes a check field sums (30 R86, 42 R176). -/
def checkedSpan (c : Config) (a r : Nibble) (p : List Byte) : List Byte :=
  fmtAndLen (fmtByte a r) (packetLen c a p) ++ p

/-- The frame of the payload `p` with identifier `a` and reserved nibble `r`. -/
def wireFrame (c : Config) (a r : Nibble) (p : List Byte) : List Byte :=
  syncBytes c ++ checkedSpan c a r p ++ checkField a (checkedSpan c a r p)

/-- The encoder's frame is the one with the reserved nibble 0 (42 R175). -/
theorem encodedFrame_eq_wireFrame (c : Config) (a : Nibble) (p : List Byte) : encodedFrame c a p = wireFrame c a 0 p := rfl

/-- The middle of three sequences. -/
theorem slice_append_middle (xs ys zs : List Byte) : slice (xs ++ ys ++ zs) xs.length (xs ++ ys).length = ys := by
  simp [slice]

theorem syncBytes_length (c : Config) : (syncBytes c).length = c.nsync.toNat := by
  rw [syncBytes]
  split <;> simp [*, NSync.toNat]

theorem checkedSpan_length (c : Config) (a r : Nibble) (p : List Byte) : (checkedSpan c a r p).length = 3 + p.length := by
  simp [checkedSpan, fmtAndLen]; omega

theorem checkField_length {a : Nibble} (ha : supported a = true) (span : List Byte) :
    (checkField a span).length = checkLen a := by
  rcases supported_iff.1 ha with rfl | rfl | rfl <;> rfl

/-- The check field carries the check value (30 R87, 42 R176). -/
theorem ckValue_eq_beValue_checkField {a : Nibble} (ha : supported a = true) (h0 : a ≠ 0) (span : List Byte) :
    ckValue a span = some (beValue (checkField a span)) := by
  have h16 : sum16 span < 65536 := Nat.mod_lt _ (by decide)
  have h8 : sum8 span < 256 := Nat.mod_lt _ (by decide)
  rcases supported_iff.1 ha with rfl | rfl | rfl
  · exact absurd rfl h0
  · change some (sum8 span) = some (beValue (beBytes 1 (sum8 span)))
    rw [beBytes_one]
    simp [beValue, loByte, Nat.mod_eq_of_lt h8]
  · change some (sum16 span) = some (beValue (beBytes 2 (sum16 span)))
    rw [beBytes_two]
    simpa [beValue, be16] using (be16_hiByte_loByte h16).symm

section
variable {c : Config} {a : Nibble} (ha : supported a = true) (r : Nibble) (p : List Byte)

/-- A byte after the sync bytes. -/
theorem getD_wireFrame (k : Nat) : (wireFrame c a r p).getD (c.nsync.toNat + k) 0 =
    (checkedSpan c a r p ++ checkField a (checkedSpan c a r p)).getD k 0 := by
  rw [wireFrame, List.append_assoc, List.getD_append_right _ _ _ _ (by rw [syncBytes_length]; omega), syncBytes_length,
    Nat.add_sub_cancel_left]

theorem frameAlg_wireFrame : frameAlg c (wireFrame c a r p) = a := by
  have h := getD_wireFrame (c := c) (a := a) r p 0
  rw [Nat.add_zero] at h
  rw [frameAlg, h]
  exact hiNibble_fmtByte a r

include ha

theorem wireFrame_length : (wireFrame c a r p).length = packetLen c a p := by
  simp only [wireFrame, List.length_append, syncBytes_length, checkedSpan_length, checkField_length ha, packetLen,
    headerLen_eq]
  omega

/-- The bytes before the check field. -/
theorem wireFrame_length_sub : (wireFrame c a r p).length - checkLen a = (syncBytes c ++ checkedSpan c a r p).length := by
  rw [wireFrame, List.length_append, checkField_length ha, Nat.add_sub_cancel]

theorem framePayload_wireFrame : framePayload c (wireFrame c a r p) = p := by
  have hhdr : c.headerLen = (syncBytes c ++ fmtAndLen (fmtByte a r) (packetLen c a p)).length := by
    simp [syncBytes_length, headerLen_eq, fmtAndLen]
  rw [framePayload, frameAlg_wireFrame, wireFrame_length_sub ha, hhdr, wireFrame, checkedSpan, ← List.append_assoc]
  exact slice_append_middle ..

/-- Within the length bounds of the configuration the frame is well-formed (30 R98). -/
theorem wireFrame_wf (hlen : packetLen c a p ≤ c.rxMax) : FrameWf c (wireFrame c a r p) := by
  have halg : hiNibble ((wireFrame c a r p).getD c.nsync.toNat 0) = a := frameAlg_wireFrame r p
  have hlow : c.headerLen + checkLen a ≤ packetLen c a p := by rw [packetLen]; omega
  have h16 : packetLen c a p < 65536 := (hlen.trans (rxMax_le_proto c)).trans_lt c.protoMax.isLt
  refine ⟨?_, ?_, ?_, ?_, ?_, ?_⟩
  · rw [wireFrame_length ha]; omega
  · rw [wireFrame, List.append_assoc, ← syncBytes_length, List.take_left]
  · rw [halg]; exact ha
  · rw [wireFrame_length ha, getD_wireFrame, getD_wireFrame]
    exact be16_hiByte_loByte h16
  · rw [halg, wireFrame_length ha]; exact ⟨hlow, hlen⟩
  · rw [halg]
    intro hcl
    have h0 : a ≠ 0 := by rintro rfl; exact hcl rfl
    rw [wireFrame_length_sub ha, wireFrame, List.drop_left, ← syncBytes_length, slice_append_middle]
    exact ckValue_eq_beValue_checkField ha h0 _

end

/-- Settles O33: the row submits the bytes of a well-formed frame. -/
theorem sum16FrameRowDeliversItsPayload : Obligations.Sum16FrameRowDeliversItsPayload := by
  intro s r p i hi hs len fmt sum hlen hrow
  have hwf : FrameWf s.cfg (wireFrame s.cfg 2 r p) := wireFrame_wf rfl r p hlen
  have hbytes : wireFrame s.cfg 2 r p =
      syncBytes s.cfg ++ (fmtAndLen fmt len ++ (p ++ [hiByte sum, loByte sum])) := by
    have hcheck : checkField 2 (checkedSpan s.cfg 2 r p) = [hiByte sum, loByte sum] := beBytes_two sum
    rw [wireFrame, hcheck, checkedSpan, List.append_assoc, List.append_assoc]
    rfl
  have hrun : exec i s = feed (wireFrame s.cfg 2 r p) s := by
    rw [hbytes]
    obtain ⟨hn, rfl⟩ | ⟨hn, rfl⟩ := hrow
    · have hfield : 5 + (p ++ [hiByte sum, loByte sum]).length = len := by
        simp [len, headerLen_eq, hn, NSync.toNat]; omega
      rw [exec_frameF2, hfield, syncBytes, hn]
      rfl
    · have hfield : 4 + (p ++ [hiByte sum, loByte sum]).length = len := by
        simp [len, headerLen_eq, hn, NSync.toNat]; omega
      rw [exec_frameF1, hfield, syncBytes, hn]
      rfl
  refine ⟨_, hrun.trans (feed_wellFormed hwf hi hs), ?_⟩
  rw [State.afterFrame, framePayload_wireFrame rfl]
  rfl

end Sys2Proof.Machine
end

section
/-! The checksum engine (40_checksum.md): what CK and its incremental form answer, and for which identifiers they are refused. -/

namespace Sys2Proof.Machine

/-! ### The check value of a span -/

/-- Sum8 and Sum16 are the only identifiers with a checksum (40 R122). -/
theorem ckValue_eq_none_iff {a : Nibble} {span : List Byte} : ckValue a span = none ↔ a ≠ 1 ∧ a ≠ 2 := by
  rw [← BitVec.toNat_ne_iff_ne, ← BitVec.toNat_ne_iff_ne, ckValue]
  split
  · simp [*]
  · simp [*]
  · next h1 h2 => exact iff_of_true rfl ⟨h1, h2⟩

/-- The accumulator with the sum of a span gives the check value of the span (40 R117). -/
theorem ckFinalValue_of_byteSum {a : Nibble} (ha : a = 1 ∨ a = 2) (span : List Byte) :
    ckFinalValue a (BitVec.ofNat 16 (byteSum span)) = ckValue a span := by
  obtain rfl | rfl := ha
  · exact congrArg some (Nat.mod_mod_of_dvd _ (by decide))
  · rfl

/-- CK_FINAL is defined for the identifiers CK is defined for (40 R117, R122). -/
theorem ckFinalValue_eq_none_iff {a : Nibble} {acc : Half} : ckFinalValue a acc = none ↔ a ≠ 1 ∧ a ≠ 2 := by
  rw [← ckValue_eq_none_iff (span := [])]
  simp only [ckFinalValue, ckValue]
  split <;> simp

/-- The check value of a span depends on the sum of its bytes alone (40 R113, R114). -/
theorem ckValue_congr {a : Nibble} {span span' : List Byte} (h : byteSum span = byteSum span') :
    ckValue a span = ckValue a span' := by
  simp only [ckValue, sum8, sum16, h]

theorem byteSum_perm {span span' : List Byte} (h : span.Perm span') : byteSum span = byteSum span' := by
  rw [byteSum_eq, byteSum_eq, (h.map BitVec.toNat).sum_nat]

theorem sum8_eq_sum16_mod (span : List Byte) : sum8 span = sum16 span % 256 :=
  (Nat.mod_mod_of_dvd _ (by decide)).symm

/-! ### CK and CK_FINAL -/

section
variable (s : State)

theorem exec_ck_one (span : List Byte) : exec (.ck 1 span) s = .next (s.answer (sum8 span)) := rfl

theorem exec_ck_two (span : List Byte) : exec (.ck 2 span) s = .next (s.answer (sum16 span)) := rfl

/-- CK answers the check value of its span where there is one. -/
theorem exec_ck_of_value {a : Nibble} {span : List Byte} {v : Nat} (h : ckValue a span = some v) :
    exec (.ck a span) s = .next (s.answer v) := by
  change execCk a span s = _
  rw [execCk, h]

/-- CK is refused where its span has no check value. -/
theorem exec_ck_refused_iff (a : Nibble) (span : List Byte) :
    exec (.ck a span) s = .refused (.checksumNotDefined a) ↔ ckValue a span = none := by
  change execCk a span s = _ ↔ _
  rw [execCk]
  cases ckValue a span <;> simp

/-- CK_FINAL answers the check value ACC gives where there is one. -/
theorem exec_ckFinal_of_value {a : Nibble} {v : Nat} (h : ckFinalValue a s.acc = some v) :
    exec (.ckFinal a) s = .next (s.answer v) := by
  change execCkFinal a s = _
  rw [execCkFinal, h]

/-- CK_FINAL is refused where ACC gives no check value. -/
theorem exec_ckFinal_refused_iff (a : Nibble) :
    exec (.ckFinal a) s = .refused (.checksumNotDefined a) ↔ ckFinalValue a s.acc = none := by
  change execCkFinal a s = _ ↔ _
  rw [execCkFinal]
  cases ckFinalValue a s.acc <;> simp

end

/-- Settles O34: the five entries of the table, and the free value for the rest. -/
theorem checkLenAnswersTheTable : Obligations.CheckLenAnswersTheTable := by
  intro s
  have htable : ∀ x ∈ [((0 : Nibble), 0), (1, 1), (2, 2), (3, 2), (4, 4)], checkLen x.1 = x.2 := by decide
  exact ⟨fun x hx => by rw [← htable x hx]; rfl, fun a _ => ⟨checkLen a, rfl⟩⟩

/-- Settles O35: the model's sum is the sum of the bytes' values. -/
theorem ckIsTheModularSum : Obligations.CkIsTheModularSum := by
  intro s span
  rw [exec_ck_one, exec_ck_two, sum8, sum16, byteSum_eq]
  exact ⟨rfl, rfl⟩

/-- Settles O36: CK and CK_FINAL have no value for the same identifiers. -/
theorem otherIdentifiersHaveNoChecksum : Obligations.OtherIdentifiersHaveNoChecksum := fun s a span =>
  ⟨(exec_ck_refused_iff s a span).trans ckValue_eq_none_iff, (exec_ckFinal_refused_iff s a).trans ckFinalValue_eq_none_iff⟩

/-- Settles O38, by the two answers of CK. -/
theorem sum8IsSum16Mod256 : Obligations.Sum8IsSum16Mod256 := fun s span =>
  ⟨_, _, _, _, exec_ck_one s span, exec_ck_two s span, rfl, rfl, sum8_eq_sum16_mod span⟩

/-- Settles O39: a reordering keeps the sum, and CK reads nothing else of its span. -/
theorem reorderingIsNotDetected : Obligations.ReorderingIsNotDetected := by
  intro s a span span' h
  change execCk a span s = execCk a span' s
  rw [execCk, execCk, ckValue_congr (byteSum_perm h)]

/-! ### The incremental form -/

/-- CK_UPDATE of the bytes of a span, in order, adds their sum to ACC modulo 65536 (40 R117). -/
theorem execAll_ckUpdate (span : List Byte) (s : State) (x : Half) :
    execAll (span.map .ckUpdate) { s with acc := x, out := {} } =
      .next { s with acc := BitVec.ofNat 16 (x.toNat + byteSum span), out := {} } := by
  induction span generalizing x with
  | nil => simp [execAll, byteSum]
  | cons b bs ih =>
    have hacc : BitVec.ofNat 16 ((BitVec.ofNat 16 (x.toNat + b.toNat)).toNat + byteSum bs) =
        BitVec.ofNat 16 (x.toNat + byteSum (b :: bs)) := by
      apply BitVec.eq_of_toNat_eq
      simp only [BitVec.toNat_ofNat, byteSum]
      omega
    exact (ih (BitVec.ofNat 16 (x.toNat + b.toNat))).trans (by rw [hacc])

/-- The incremental form leaves the sum of the span in ACC and answers its check value (40 R117). -/
theorem execAll_incremental {a : Nibble} (ha : a = 1 ∨ a = 2) {span : List Byte} {v : Nat} (hv : ckValue a span = some v)
    (s : State) : execAll (.ckInit :: span.map .ckUpdate ++ [.ckFinal a]) s =
      .next ({ s with acc := BitVec.ofNat 16 (byteSum span) }.answer v) := by
  have hsum : execAll (.ckInit :: span.map .ckUpdate) s =
      .next { s with acc := BitVec.ofNat 16 (byteSum span), out := {} } := by
    rw [← Nat.zero_add (byteSum span)]
    exact execAll_ckUpdate span s 0
  rw [execAll_append, hsum, andThen_of_next, execAll, exec_ckFinal_of_value _ ((ckFinalValue_of_byteSum ha span).trans hv)]
  rfl

/-- Settles O37: the steps by their definitions, and the run of the incremental form by induction over the span. -/
theorem incrementalChecksumEqualsSpanChecksum : Obligations.IncrementalChecksumEqualsSpanChecksum := by
  refine fun s => ⟨rfl, fun b => ⟨_, rfl, rfl, BitVec.toNat_ofNat ..⟩, rfl, rfl, fun a span ha => ?_⟩
  obtain ⟨v, hv⟩ : ∃ v, ckValue a span = some v := by
    rw [← Option.ne_none_iff_exists', Ne, ckValue_eq_none_iff]
    tauto
  exact ⟨_, _, execAll_incremental ha hv s, exec_ck_of_value s hv, rfl, rfl⟩

end Sys2Proof.Machine
end

section
/-! One changed byte in the payload or the check field of a well-formed frame (40 R120): the header tests pass as before, and the
check field no longer fits. -/

namespace Sys2Proof.Machine

/-! ### The check field and a changed byte -/

/-- Big-endian values of fields of one length, read on from `v` and `w`, are equal for equal starts and equal fields only
(30 R87). -/
theorem eq_of_foldl_be_eq {as bs : List Byte} (hlen : as.length = bs.length) {v w : Nat}
    (h : as.foldl (fun v b => v * 256 + b.toNat) v = bs.foldl (fun v b => v * 256 + b.toNat) w) : v = w ∧ as = bs := by
  induction as generalizing bs v w with
  | nil =>
    obtain rfl := List.length_eq_zero_iff.1 hlen.symm
    exact ⟨h, rfl⟩
  | cons a as ih =>
    obtain ⟨b, bs, rfl⟩ := List.exists_cons_of_length_eq_add_one hlen.symm
    obtain ⟨hstart, rfl⟩ := ih (Nat.succ.inj hlen) h
    replace hstart : v * 256 + a.toNat = w * 256 + b.toNat := hstart
    have ha := a.isLt
    have hb := b.isLt
    obtain rfl : a = b := BitVec.eq_of_toNat_eq (by omega)
    exact ⟨by omega, rfl⟩

section
variable {l : List Byte} {i : Nat} {x y : Byte} (hx : l[i]? = some x) (hy : y ≠ x)
include hx hy

/-- A changed byte of a check field changes its value. -/
theorem beValue_set_ne : beValue (l.set i y) ≠ beValue l := by
  intro h
  obtain ⟨-, hset⟩ := eq_of_foldl_be_eq (by simp) h
  have hi : i < l.length := (List.getElem?_eq_some_iff.1 hx).1
  have hread : (l.set i y)[i]? = some y := List.getElem?_set_self hi
  rw [hset, hx] at hread
  exact hy (Option.some.inj hread).symm

/-- A changed byte of a span changes its check value: the sum moves by less than 256 and not by 0. -/
theorem ckValue_set_ne {a : Nibble} (ha : a = 1 ∨ a = 2) : ckValue a (l.set i y) ≠ ckValue a l := by
  have hsum := byteSum_set l i x y hx
  have hne : y.toNat ≠ x.toNat := fun h => hy (BitVec.eq_of_toNat_eq h)
  have hxlt := x.isLt
  have hylt := y.isLt
  obtain rfl | rfl := ha
  · change some (byteSum _ % 256) ≠ some (byteSum _ % 256)
    rw [Ne, Option.some.injEq]
    omega
  · change some (byteSum _ % 65536) ≠ some (byteSum _ % 65536)
    rw [Ne, Option.some.injEq]
    omega

end

/-- Changing a byte before a span does not change the span. -/
theorem slice_set_before {f : List Byte} {i j k : Nat} {y : Byte} (h : k < i) : slice (f.set k y) i j = slice f i j := by
  rw [slice, List.drop_set_of_lt h, slice]

/-- A check field that fits does not fit when one byte from the format byte on has changed: the byte is in the span, and the
sum changes, or it is in the field, and the field changes. -/
theorem not_checkFits_set {c : Config} {a : Nibble} {f : List Byte} {j : Nat} {x y : Byte} (ha : a = 1 ∨ a = 2)
    (hlen : checkLen a ≤ f.length) (hfit : CheckFits c a f) (hx : f[j]? = some x) (hy : y ≠ x) (hj : c.nsync.toNat ≤ j) :
    ¬CheckFits c a (f.set j y) := by
  have hs : supported a = true := supported_iff.2 (.inr ha)
  have h0 : a ≠ 0 := by rcases ha with rfl | rfl <;> decide
  have hjlen : j < f.length := (List.getElem?_eq_some_iff.1 hx).1
  rw [checkFits_iff hs hlen] at hfit
  rw [checkFits_iff hs (by rwa [List.length_set]), List.length_set]
  simp only [h0, false_or] at hfit ⊢
  by_cases hspan : j < f.length - checkLen a
  · have hread : (slice f c.nsync.toNat (f.length - checkLen a))[j - c.nsync.toNat]? = some x := by
      rw [slice_get (by omega), Nat.add_sub_cancel' hj, hx]
    rw [slice_set_in hj, slice_set_before hspan, ← hfit]
    exact ckValue_set_ne hread hy ha
  · have hread : (slice f (f.length - checkLen a) f.length)[j - (f.length - checkLen a)]? = some x := by
      rw [slice_get (by omega), Nat.add_sub_cancel' (by omega), hx]
    rw [slice_set_out (by omega), slice_set_in (by omega), hfit, Option.some.injEq]
    exact (beValue_set_ne hread hy).symm

/-! ### Another frame behind the same header -/

section
variable {s : State} {f g : List Byte} (hf : FrameWf s.cfg f) (hlen : g.length = f.length)
  (hhdr : g.take s.cfg.headerLen = f.take s.cfg.headerLen)

include hhdr in
theorem frameAlg_of_sameHeader : frameAlg s.cfg g = frameAlg s.cfg f := by
  have hn : s.cfg.nsync.toNat < s.cfg.headerLen := by rw [headerLen_eq]; omega
  rw [frameAlg, frameAlg, List.getD, List.getD, ← List.getElem?_take_of_lt hn, hhdr, List.getElem?_take_of_lt hn]

include hlen hhdr in
/-- With only the header collected, the decoder does not know the two apart. -/
theorem State.midFrame_of_sameHeader : s.midFrame g s.cfg.headerLen = s.midFrame f s.cfg.headerLen := by
  rw [State.midFrame, State.midFrame, hhdr, hlen, frameAlg_of_sameHeader hhdr]

include hf hlen hhdr

/-- Behind the header of a well-formed frame, every byte but the last is collected, whatever it is (41 R136). -/
theorem feed_take_sameHeader (hi : s.Inv) (hs : s.state = .idle) {k : Nat} (hk : s.cfg.headerLen ≤ k) (hkg : k < g.length) :
    ∃ o, feed (g.take k) s = .next ((s.midFrame g k).withOut o) := by
  induction k, hk using Nat.le_induction with
  | base =>
    rw [hhdr, State.midFrame_of_sameHeader hlen hhdr]
    exact feed_take_wellFormed hf hi hs (hlen ▸ hkg)
  | succ k hk ih =>
    obtain ⟨o, ho⟩ := ih (by omega)
    have hcap : k + 1 ≤ s.cfg.rxCap := by have := hf.le_rxCap; omega
    have hpkt : (s.midFrame g k).pktlen = g.length := if_neg (Nat.not_lt.2 hk)
    refine ⟨{ event := some .body }, ?_⟩
    rw [feed_take (by omega), ho, andThen_of_next, submitByte_withOut,
      submitByte_body_store (framePhase_body hk) hcap (hpkt.symm ▸ hkg), State.midFrame_store_body (by omega) hk]
    rfl

/-- FRAME_COMPLETE rejects a frame with a well-formed header whose check field does not fit (41 R146, R147). -/
theorem frameComplete_midFrame_of_not_fits (hfit : ¬CheckFits s.cfg (frameAlg s.cfg g) g) :
    frameComplete (s.midFrame g g.length) = .next ((s.midFrame g g.length).reject .checksumMismatch) := by
  have halg := frameAlg_of_sameHeader hhdr
  have hlong : ¬g.length < s.cfg.headerLen := Nat.not_lt.2 (hlen ▸ hf.long)
  have hpkt : (s.midFrame g g.length).pktlen = g.length := if_neg hlong
  have hmalg : (s.midFrame g g.length).alg = frameAlg s.cfg g := if_neg hlong
  refine frameComplete_of_not_fits hpkt.symm ?_ (fun i hi => ?_) ?_ ?_ (.inl hpkt.le) (by rwa [hmalg])
  · rw [hpkt, hlen]; exact hf.le_rxCap
  · exact read_writeAll_take s.rxbuf le_rfl (hpkt ▸ hi)
  · rw [hmalg, halg]; exact hf.alg
  · rw [hmalg, halg, hpkt, hlen]; exact hf.bounds.1

/-- Fed to an idle decoder, it ends in E4 on its last byte (41 R147, R148). -/
theorem feed_of_not_fits (hi : s.Inv) (hs : s.state = .idle) (hbody : s.cfg.headerLen < g.length)
    (hfit : ¬CheckFits s.cfg (frameAlg s.cfg g) g) :
    feed g s = .next ((s.midFrame g g.length).reject .checksumMismatch) := by
  obtain ⟨k, hk⟩ : ∃ k, g.length = k + 1 := ⟨g.length - 1, by omega⟩
  have hhk : s.cfg.headerLen ≤ k := by omega
  have hcap : k + 1 ≤ s.cfg.rxCap := by have := hf.le_rxCap; omega
  have hpkt : (s.midFrame g k).pktlen = k + 1 := (if_neg (Nat.not_lt.2 hhk)).trans hk
  obtain ⟨o, ho⟩ := feed_take_sameHeader hf hlen hhdr hi hs hhk (by omega)
  calc feed g s = feed (g.take (k + 1)) s := by rw [← hk, List.take_length]
    _ = submitByte (g.getD k 0) (s.midFrame g k) := by
      rw [feed_take (by omega), ho, andThen_of_next, submitByte_withOut]
    _ = frameComplete (s.midFrame g g.length) := by
      rw [submitByte_body_complete (framePhase_body hhk) hcap hpkt.le, State.midFrame_store_body (by omega) hhk, hk]
    _ = .next ((s.midFrame g g.length).reject .checksumMismatch) := frameComplete_midFrame_of_not_fits hf hlen hhdr hfit

end

/-- Flipping a bit of a byte changes it. -/
theorem xor_bit_ne (x : Byte) {k : Nat} (hk : k < 8) : x ^^^ ((1 : Byte) <<< k) ≠ x := by
  have hbit : ∀ k < 8, (1 : Byte) <<< k ≠ 0 := by decide
  rw [Ne, xor_left_eq_self_iff]
  exact hbit k hk

/-- Settles O28: the header is as before, the changed byte keeps the check field from fitting, and the last byte ends in E4. -/
theorem singleBitFlipIsRejected : Obligations.SingleBitFlipIsRejected := by
  intro s f j k x hi hs hf h0 hj hx hk
  have hjlen : j < f.length := (List.getElem?_eq_some_iff.1 hx).1
  have hhdr : (f.set j (x ^^^ ((1 : Byte) <<< k))).take s.cfg.headerLen = f.take s.cfg.headerLen :=
    List.take_set_of_le hj
  have ha : frameAlg s.cfg f = 1 ∨ frameAlg s.cfg f = 2 := (supported_iff.1 hf.alg).resolve_left h0
  have hnot := not_checkFits_set ha ((Nat.le_add_left ..).trans hf.bounds.1) hf.checkFits hx (xor_bit_ne x hk)
    ((Nat.le_add_right _ 3).trans hj)
  rw [← frameAlg_of_sameHeader hhdr] at hnot
  exact ⟨_, feed_of_not_fits hf List.length_set hhdr hi hs (by rw [List.length_set]; omega) hnot, rfl, rfl, rfl, rfl⟩

end Sys2Proof.Machine
end

section
/-! Streams of frames and noise, and stream programs (41 R130, R158): what is delivered, and that nothing stops. -/

namespace Sys2Proof.Machine

/-! ### Frames and noise -/

/-- Settles O25: the state before each byte is known and in the invariant, and the last byte delivers the payload. -/
theorem wellFormedFrameIsDelivered : Obligations.WellFormedFrameIsDelivered := by
  intro s f hi hs hf
  refine ⟨⟨_, feed_wellFormed hf hi hs, rfl⟩, fun k hk => ?_⟩
  obtain ⟨o, hmid⟩ := feed_take_wellFormed hf hi hs hk
  obtain ⟨u, hu, hinv⟩ := feed_answers (f.take k) hi
  cases hmid.symm.trans hu
  exact ⟨_, hu, rfl, hinv⟩

/-- A byte other than SYNC1 in Idle is discarded (41 R133). -/
theorem submitByte_noise {s : State} {b : Byte} (hs : s.state = .idle) (hb : b ≠ s.cfg.sync1) :
    submitByte b s = .next (s.emit .discard) := by
  rw [submitByte, hs]
  exact if_pos hb

/-- Noise fed to an idle decoder leaves all but the outputs as it was. -/
theorem feed_noise {s : State} (hs : s.state = .idle) {noise : List Byte} (hnoise : ∀ b ∈ noise, b ≠ s.cfg.sync1) :
    ∃ o, feed noise s = .next (s.withOut o) := by
  induction noise generalizing s with
  | nil => exact ⟨s.out, rfl⟩
  | cons b bs ih =>
    obtain ⟨hb, hbs⟩ := List.forall_mem_cons.1 hnoise
    rw [feed_cons, submitByte_noise hs hb, andThen_of_next]
    exact ih (s := s.emit .discard) hs hbs

theorem State.Inv.withOut {s : State} (hi : s.Inv) (o : Output) : (s.withOut o).Inv :=
  hi.of_decoder_eq hi.memory.2 hi.bounds.2 rfl

/-- Noise and then a well-formed frame: the frame is delivered, and the decoder is idle again. -/
theorem feed_noise_frame {s : State} (hi : s.Inv) (hs : s.state = .idle) {noise f : List Byte}
    (hnoise : ∀ b ∈ noise, b ≠ s.cfg.sync1) (hf : FrameWf s.cfg f) :
    ∃ t, feed (noise ++ f) s = .next t ∧ t.Inv ∧ t.state = .idle ∧ t.cfg = s.cfg ∧
      t.sink = s.sink ++ [framePayload s.cfg f] := by
  obtain ⟨o, ho⟩ := feed_noise hs hnoise
  have hrun : feed (noise ++ f) s = .next ((s.withOut o).afterFrame f) := by
    rw [feed_append, ho, andThen_of_next, feed_wellFormed (s := s.withOut o) hf (hi.withOut o) hs]
  obtain ⟨t, ht, hinv⟩ := feed_answers (noise ++ f) hi
  cases hrun.symm.trans ht
  exact ⟨_, ht, hinv, hs, rfl, rfl⟩

/-- Settles O26, by induction on the segments: after each the decoder is idle in the invariant, as before it. -/
theorem noiseBetweenFramesIsHarmless : Obligations.NoiseBetweenFramesIsHarmless := by
  intro s segments tail hi hs hsegments htail
  induction segments generalizing s with
  | nil =>
    obtain ⟨o, ho⟩ := feed_noise hs htail
    exact ⟨_, ho, hs, hi.withOut o, (List.append_nil _).symm⟩
  | cons x xs ih =>
    obtain ⟨⟨hnoise, hf⟩, hxs⟩ := List.forall_mem_cons.1 hsegments
    obtain ⟨u, hu, huinv, huidle, hucfg, husink⟩ := feed_noise_frame hi hs hnoise hf
    rw [← hucfg] at hxs htail
    obtain ⟨t, ht, htidle, htinv, htsink⟩ := ih u huinv huidle hxs htail
    refine ⟨t, ?_, htidle, htinv, ?_⟩
    · rw [List.map_cons, List.flatten_cons, List.append_assoc, feed_append, hu, andThen_of_next, ht]
    · rw [htsink, husink, hucfg, List.map_cons, List.append_assoc, List.singleton_append]

/-! ### The round trip -/

/-- ENCODE with a supported selector and a frame within the bounds writes the frame (42 R175 to R177). -/
theorem encodeOp_ok {a : Nibble} {p : List Byte} {s : State} (ha : supported a = true)
    (htx : packetLen s.cfg a p ≤ s.cfg.txCap) (hproto : packetLen s.cfg a p ≤ s.cfg.protoMax.toNat) :
    encodeOp a p s = .next { s with
      txbuf := Memory.writeAll s.txbuf 0 (encodedFrame s.cfg a p)
      out := { encResult := some (.ok (packetLen s.cfg a p)) } } := by
  rw [encodeOp, if_neg (by simp [ha]), if_neg (Nat.not_lt.2 htx), if_neg (Nat.not_lt.2 hproto)]

/-- A payload of at most MAXPAYLOAD bytes makes a frame within all bounds (00 R13). -/
theorem packetLen_le_of_maxPayload {c : Config} {a : Nibble} {p : List Byte} {m : Nat} (hm : maxPayload c a = some m)
    (hp : p.length ≤ m) : packetLen c a p ≤ c.rxMax ∧ packetLen c a p ≤ c.txCap := by
  rw [maxPayload] at hm
  split at hm
  · cases hm
    rw [packetLen]
    omega
  · cases hm

/-- Settles O27: the frame ENCODE writes is well-formed, and feeding it delivers its payload. -/
theorem encodeThenDecodeRoundTrip : Obligations.EncodeThenDecodeRoundTrip := by
  intro s a p m hi hs ha hm hp
  obtain ⟨hrx, htx⟩ := packetLen_le_of_maxPayload hm hp
  have henc := encodeOp_ok (s := s) ha htx (hrx.trans (rxMax_le_proto _))
  have hwf : FrameWf s.cfg (encodedFrame s.cfg a p) := wireFrame_wf ha 0 p hrx
  have hpayload : framePayload s.cfg (encodedFrame s.cfg a p) = p := framePayload_wireFrame ha 0 p
  refine ⟨_, _, encodedFrame s.cfg a p, henc, ?_, fun i hlt => ?_, feed_wellFormed hwf (encodeOp_inv hi henc) hs, ?_, hs, ?_⟩
  · rw [encodedFrame_length _ ha]
  · exact (Memory.read_writeAll ..).trans (if_pos ⟨i.zero_le, by rwa [Nat.zero_add]⟩)
  · exact congrArg (s.sink ++ [·]) hpayload
  · exact congrArg some hpayload

/-! ### Stream programs -/

/-- A frame row answers as the stream of its bytes does. -/
theorem submitAll_answers (bs : List Byte) {s : State} (hi : s.Inv) : ∃ t, submitAll bs s = .next t := by
  obtain ⟨t, ht, -⟩ := feed_answers bs hi
  exact ⟨t, (submitAll_feed bs s).trans ht⟩

/-- ENCODE and its rows answer from every state (42 R170). -/
theorem exec_encodeRow_answers {i : Instr} (hrow : ∃ a p, i = .encode a p ∨ (a, i) ∈ encodeRows p) (s : State) :
    ∃ t, exec i s = .next t := by
  obtain ⟨a, p, hi⟩ := hrow
  rw [exec_of_encodeRow hi]
  rcases encodeOp_cases a p s with ⟨c, h⟩ | ⟨-, -, -, h⟩ <;> exact ⟨_, h⟩

/-- From a state of the invariant no operation the environment can issue stops (60 R198). -/
theorem exec_answers {i : Instr} {s : State} (hissue : i.issuable = true) (hi : s.Inv) : ∃ t, exec i s = .next t := by
  cases i with
  | nop | reset => exact ⟨_, rfl⟩
  | submit b => exact submitByte_answers hi b
  | fmtNone r | fmtSum8 r | fmtSum16 r | fmtCrc16 r | fmtCrc32 r | fmtUnrecognized5 r | fmtUnrecognized6 r
  | fmtUnrecognized7 r | fmtUnrecognized8 r | fmtUnrecognized9 r | fmtUnrecognized10 r | fmtUnrecognized11 r
  | fmtUnrecognized12 r | fmtUnrecognized13 r | fmtUnrecognized14 r | fmtUnrecognized15 r =>
    exact submitByte_answers hi (fmtByte _ r)
  | encode | encodeNone | encodeSum8 | encodeSum16 | encodeUnsupported3 | encodeUnsupported4 | encodeUnsupported5
  | encodeUnsupported6 | encodeUnsupported7 | encodeUnsupported8 | encodeUnsupported9 | encodeUnsupported10
  | encodeUnsupported11 | encodeUnsupported12 | encodeUnsupported13 | encodeUnsupported14 | encodeUnsupported15 =>
    exact exec_encodeRow_answers (by simp [encodeRows]) s
  | frameF2 fmt body | frameF1 fmt body => exact submitAll_answers _ hi
  | submitIdle | submitSyncPartial | submitHeader | submitBody | push | headerCheck | frameComplete | deliver
  | resetToIdle | checkLen | ck | ckInit | ckUpdate | ckFinal => cases hissue

theorem internal_of_issuable {i : Instr} (h : i.issuable = true) : i.internal = false := by
  obtain ⟨hext, -⟩ := Bool.and_eq_true_iff.1 h
  simpa using hext

/-- Settles O51, by induction on the program: each operation answers, in the invariant. -/
theorem streamProgramsNeverStop : Obligations.StreamProgramsNeverStop := by
  intro ops s hops hi
  induction ops generalizing s with
  | nil => exact ⟨s, rfl, hi⟩
  | cons i is ih =>
    obtain ⟨hissue, his⟩ := List.forall_mem_cons.1 hops
    obtain ⟨u, hu⟩ := exec_answers hissue hi
    rw [execAll, hu]
    exact ih u his (exec_inv (internal_of_issuable hissue) hi hu)

end Sys2Proof.Machine
end

section
/-! The four arms of SUBMIT by themselves, and the internal operations they run (41 R131 to R150). -/

namespace Sys2Proof.Machine

/-! ### The arm STATE selects -/

section
variable {s : State} {b : Byte}

theorem exec_submitIdle (hs : s.state = .idle) : exec (.submitIdle b) s = submitByte b s :=
  (execSubmitIdle_eq b s).trans (if_pos hs)

theorem exec_submitSyncPartial (hs : s.state = .syncPartial) : exec (.submitSyncPartial b) s = submitByte b s :=
  (execSubmitSyncPartial_eq b s).trans (if_pos hs)

theorem exec_submitHeader (hs : s.state = .headerPending) : exec (.submitHeader b) s = submitByte b s :=
  (execSubmitHeader_eq b s).trans (if_pos hs)

theorem exec_submitBody (hs : s.state = .bodyPending) : exec (.submitBody b) s = submitByte b s :=
  (execSubmitBody_eq b s).trans (if_pos hs)

end

/-- FRAME_COMPLETE that answers ends in Idle (41 R148). -/
theorem frameComplete_idle {s t : State} (h : frameComplete s = .next t) : t.state = .idle := by
  obtain ⟨-, -, ⟨-, rfl⟩ | ⟨p, -, -, rfl⟩⟩ := frameComplete_next h <;> rfl

/-- HEADER_CHECK never ends in SyncPartial. -/
theorem headerCheck_state_ne_syncPartial {s t : State} (h : headerCheck s = .next t) : t.state ≠ .syncPartial := by
  obtain ⟨f, g, l, -, -, -, h⟩ := headerCheck_next h
  rcases acceptHeader_next h with ⟨-, rfl⟩ | ⟨-, -, rfl⟩ | ⟨-, -, -, ⟨-, rfl⟩ | ⟨-, h⟩⟩
  · simp
  · simp
  · simp
  · simp [frameComplete_idle h]

/-- The only SUBMIT that ends in SyncPartial is that of SYNC1 with NSYNC = 2 (41 R131, R133). -/
theorem nsync_two_of_submitByte_syncPartial {b : Byte} {s t : State} (h : submitByte b s = .next t)
    (ht : t.state = .syncPartial) : s.cfg.nsync = .two := by
  rw [submitByte] at h
  split at h
  · rename_i hs
    rcases idleArm_next h with ⟨-, rfl⟩ | ⟨-, -, rfl⟩ | ⟨-, -, ⟨h2, rfl⟩ | ⟨-, rfl⟩⟩
    · simp [hs] at ht
    · simp at ht
    · exact h2
    · simp at ht
  · rcases syncPartialArm_next h with ⟨-, rfl⟩ | ⟨-, -, rfl⟩ | ⟨-, -, rfl⟩ <;> simp at ht
  · rename_i hs
    rcases headerArm_next h with ⟨-, rfl⟩ | ⟨-, ⟨-, rfl⟩ | ⟨-, h⟩⟩
    · simp at ht
    · simp [hs] at ht
    · exact absurd ht (headerCheck_state_ne_syncPartial h)
  · rename_i hs
    rcases bodyArm_next h with ⟨-, rfl⟩ | ⟨-, ⟨-, rfl⟩ | ⟨-, h⟩⟩
    · simp at ht
    · simp [hs] at ht
    · simp [frameComplete_idle h] at ht

/-- Settles O10: an arm is the SUBMIT of its byte under its own STATE and refused under another. -/
theorem stateSelectsTheSubmitArm : Obligations.StateSelectsTheSubmitArm := by
  refine ⟨fun s b => ⟨fun hs => (exec_submitIdle hs).symm, fun hs => (exec_submitSyncPartial hs).symm,
    fun hs => (exec_submitHeader hs).symm, fun hs => (exec_submitBody hs).symm, fun hs => if_neg hs, fun hs => if_neg hs,
    fun hs => if_neg hs, fun hs => if_neg hs⟩, ?_⟩
  intro s t b h1 _ h ht
  cases h1.symm.trans (nsync_two_of_submitByte_syncPartial h ht)

/-! ### The sync arms -/

/-- Settles O11: the match test, then PUSH at COUNT = 0. -/
theorem idleArmHuntsForSync1 : Obligations.IdleArmHuntsForSync1 := by
  intro s b hs hc
  rw [exec_submitIdle hs]
  refine ⟨submitByte_noise hs, ?_, ?_, ?_⟩
  · rintro rfl hcap h2
    rw [submitByte_sync1 hs (by omega), framePhase_sync Nat.one_pos (by rw [h2]; decide)]
    simp [State.store, State.emit, hc]
  · rintro rfl hcap h1
    rw [submitByte_sync1 hs (by omega), framePhase_header (by rw [h1]; decide) (by rw [headerLen_eq]; omega)]
    simp [State.store, State.emit, hc]
  · rintro rfl hcap
    rw [submitByte, hs]
    refine (if_neg (not_not_intro rfl)).trans ((push_overflow (by omega)).trans ?_)
    simp [State.reject, State.toIdle, State.emit, hc]

/-- Settles O12: the match test, then PUSH at COUNT = 1. -/
theorem syncPartialArmDemandsSync2 : Obligations.SyncPartialArmDemandsSync2 := by
  intro s b hs hc
  rw [exec_submitSyncPartial hs]
  refine ⟨fun hb => ?_, ?_, ?_⟩
  · rw [submitByte, hs]
    exact if_pos hb
  · rintro rfl hcap
    rw [submitByte_sync2 hs (by omega)]
    simp [State.store, State.emit, hc]
  · rintro rfl hcap
    rw [submitByte, hs]
    exact (if_neg (not_not_intro rfl)).trans (push_overflow (by omega))

/-! ### The header arm and the body arm -/

section
variable {s : State} {b : Byte}

/-- After the sync bytes a byte without room ends in E5, whatever it is (41 R135, R136). -/
theorem submitByte_overflow (hs : s.state = .headerPending ∨ s.state = .bodyPending) (hc : s.cfg.rxCap < s.count + 1) :
    submitByte b s = .next (s.reject .bufferOverflow) := by
  rw [submitByte]
  rcases hs with hs | hs <;> rw [hs] <;> exact push_overflow hc

/-- COUNT in HeaderPending (10 R34). -/
theorem State.Inv.count_header (hi : s.Inv) (hs : s.state = .headerPending) :
    s.cfg.nsync.toNat ≤ s.count ∧ s.count + 1 ≤ s.cfg.headerLen := by
  have hph := hi.phase
  rw [State.Phase, hs] at hph
  obtain ⟨hlo, hhi, -⟩ := hph
  exact ⟨hlo, hhi⟩

/-- COUNT and PKTLEN in BodyPending (10 R34). -/
theorem State.Inv.count_body (hi : s.Inv) (hs : s.state = .bodyPending) :
    s.cfg.headerLen ≤ s.count ∧ s.count + 1 ≤ s.pktlen ∧ s.pktlen ≤ s.cfg.rxCap := by
  have hph := hi.phase
  rw [State.Phase, hs] at hph
  obtain ⟨hlo, hhi, -, -, hmax, -⟩ := hph
  exact ⟨hlo, hhi, hmax.trans (rxMax_le_cap _)⟩

end

/-- Settles O13: PUSH, then the test against HEADERLEN. -/
theorem headerArmCollectsTheHeader : Obligations.HeaderArmCollectsTheHeader := by
  intro s b hs
  rw [exec_submitHeader hs]
  refine ⟨submitByte_overflow (.inl hs), submitByte_header_store hs, fun hcap hl => ?_, fun hi => ?_⟩
  · rw [submitByte_header_check hs hcap hl.ge, ← hl]
    rfl
  · obtain ⟨-, hcount⟩ := hi.count_header hs
    exact ⟨hcount, hcount.trans⟩

/-- Settles O14: PUSH, then the test against PKTLEN. -/
theorem bodyArmCollectsTheBody : Obligations.BodyArmCollectsTheBody := by
  intro s b hs
  rw [exec_submitBody hs]
  refine ⟨submitByte_overflow (.inr hs), submitByte_body_store hs,
    fun hcap hl => submitByte_body_complete hs hcap hl.ge, fun hi => ?_⟩
  obtain ⟨-, hcount, hcap⟩ := hi.count_body hs
  exact ⟨hcount.trans hcap, hcount⟩

/-! ### PUSH, HEADER_CHECK, FRAME_COMPLETE and DELIVER -/

theorem exec_push (b : Byte) (s : State) : exec (.push b) s = push b (fun t => .next t.quiet) s := rfl

/-- Settles O15: the capacity test, then one write at COUNT. -/
theorem pushStoresOneByteOrOverflows : Obligations.PushStoresOneByteOrOverflows := by
  intro s b
  rw [exec_push]
  refine ⟨push_overflow, fun hcap => ⟨(s.store b).quiet, push_store hcap, rfl, fun i => ?_⟩⟩
  simp only [State.quiet_rxbuf, State.store_rxbuf, Memory.read_write, eq_comm]

theorem supported_eq_false_iff {a : Nibble} : supported a = false ↔ 3 ≤ a.toNat := by revert a; decide

/-- Settles O16: the three header bytes are live, and the header tests run on them in order. -/
theorem headerCheckTestsThenLatches : Obligations.HeaderCheckTestsThenLatches := by
  intro s f h l hcount hcap hf hh hl a len legal
  rw [headerLen_eq] at hcount hcap
  have hrun : exec .headerCheck s = acceptHeader f h l s := headerCheck_of_reads (by omega) (by omega) hf hh hl
  have hlegal : legal ↔ s.cfg.headerLen + checkLen (hiNibble f) ≤ be16 h l ∧ be16 h l ≤ s.cfg.rxMax := by
    rw [le_rxMax_iff]; rfl
  rw [hrun, hlegal]
  refine ⟨fun ha => acceptHeader_unsupported (supported_eq_false_iff.2 ha), fun ha hbad => ?_,
    fun ha ⟨hlo, hhi⟩ => acceptHeader_latch (supported_iff_toNat_le.2 ha) hlo hhi,
    fun ha ⟨hlo, hhi⟩ => acceptHeader_complete (supported_iff_toNat_le.2 ha) hlo hhi⟩
  exact acceptHeader_badLength (supported_iff_toNat_le.2 ha) (by omega)

/-- Settles O17: with COUNT = PKTLEN every byte of the frame is live, and the check field decides. -/
theorem frameCompleteValidatesDeliversResets : Obligations.FrameCompleteValidatesDeliversResets := by
  intro s f hcount hf hcap hr ha hlo n good payload
  have hs := supported_iff_toNat_le.2 ha
  have hgood : good ↔ CheckFits s.cfg s.alg f := by simp only [good, n, CheckFits, hf]
  have hpayload : payload = slice f s.cfg.headerLen (s.pktlen - checkLen s.alg) := by rw [checkLen_supported hs]
  rw [← checkLen_supported hs] at hlo
  rw [hgood, hpayload]
  exact ⟨frameComplete_of_fits hf hcap hr hs hlo (.inl hcount.ge),
    frameComplete_of_not_fits hf hcap hr hs hlo (.inl hcount.ge)⟩

/-- FRAME_COMPLETE of a None frame that is only its header delivers the empty payload, reading no byte (41 R144). -/
theorem frameComplete_emptyNone {s : State} (ha : s.alg = 0) (hn : s.pktlen = s.cfg.headerLen) :
    frameComplete s = .next (s.deliver []).toIdle := by
  have hcl : checkLen s.alg = 0 := by rw [ha]; rfl
  refine frameComplete_of_payload (ha ▸ supported_zero) (by omega) (by rw [validate, if_pos ha]) ?_
  rw [hn, hcl, Nat.sub_zero, Nat.sub_self]
  rfl

/-- An accepted header that is the whole frame is a None header, and delivers the empty payload (41 R144). -/
theorem acceptHeader_emptyNone {s : State} {f h l : Byte} (hcount : s.count = s.cfg.headerLen)
    (hlen : be16 h l = s.cfg.headerLen) (ha : hiNibble f = 0) (hmax : s.cfg.headerLen ≤ s.cfg.rxMax) :
    acceptHeader f h l s = .next (s.deliver []).toIdle := by
  have hcl : checkLen (hiNibble f) = 0 := by rw [ha]; rfl
  rw [acceptHeader_complete (ha ▸ supported_zero) (by omega) (by omega) (by omega),
    frameComplete_emptyNone (s := { s with alg := hiNibble f, pktlen := be16 h l }) ha hlen]
  rfl

/-- Settles O18: the header tests pass, and the frame is complete with no payload. -/
theorem emptyNoneFrameCompletesInItsHeader : Obligations.EmptyNoneFrameCompletesInItsHeader := by
  intro s f h b hi hs hcount hcap hf ha hh hlen
  have hproto : s.cfg.headerLen ≤ s.cfg.protoMax.toNat := of_decide_eq_true hi.config
  have hn := headerLen_eq s.cfg
  rw [exec_submitHeader hs, submitByte_header_check hs (hcount.trans_le hcap) hcount.ge,
    headerCheck_of_reads (s := s.store b) (f := f) (h := h) (l := b) (by simp; omega) (by simp; omega)]
  · exact acceptHeader_emptyNone hcount hlen ha (le_rxMax_iff.2 ⟨hcap, hproto⟩)
  · exact (read_store_lt (by simp; omega)).trans hf
  · exact (read_store_lt (by simp; omega)).trans hh
  · have hat : (s.store b).cfg.nsync.toNat + 2 = s.count := by simp; omega
    rw [hat, State.store_rxbuf, Memory.read_write_same]

/-- Settles O19: a payload length below 65536 is shown whole on the 16-bit port. -/
theorem deliverInvokesTheSinkOnce : Obligations.DeliverInvokesTheSinkOnce := by
  intro s p hp
  exact ⟨_, rfl, rfl, rfl, rfl, (BitVec.toNat_ofNat ..).trans (Nat.mod_eq_of_lt hp)⟩

end Sys2Proof.Machine
end

section
/-! The transition table of 41 R153: which row a SUBMIT in the invariant takes, and what follows about overflow, delivery and the
bytes of RXBUF (41 R150, R152, R155). -/

namespace Sys2Proof.Machine

/-! ### Rows of the table -/

/-- `t` is the answer of the row `r`: STATE, COUNT, the event and the DELIVER column (41 R153). -/
structure State.AnswersRow (t : State) (r : DecoderState × Nat × Event) : Prop where
  state : t.state = r.1
  count : t.count = r.2.1
  event : t.out.event = some r.2.2
  deliver : t.out.deliver.isSome = decide (r.2.2 = .deliver)

/-- Every rejection ends in Idle with COUNT = 0 and its own event (60 R200). -/
theorem State.reject_answersRow (s : State) {e : Event} (he : e ≠ .deliver) : (s.reject e).AnswersRow (.idle, 0, e) :=
  ⟨rfl, rfl, rfl, (decide_eq_false he).symm⟩

/-- Every delivery ends in Idle with COUNT = 0 (41 R148). -/
theorem State.deliver_answersRow (s : State) (p : List Byte) : (s.deliver p).toIdle.AnswersRow (.idle, 0, .deliver) :=
  ⟨rfl, rfl, rfl, rfl⟩

section
variable {s t : State} {b : Byte} (hi : s.Inv) (h : submitByte b s = .next t)
include hi

/-- The frame collected so far, with the new byte, is what RXBUF holds. -/
theorem State.Inv.getD_of_read_store {i : Nat} {x : Byte} (hlt : i < s.count + 1)
    (hx : Memory.read (s.store b).rxbuf i = some x) : (s.liveBytes ++ [b]).getD i 0 = x := by
  rw [List.getD, ← read_store_eq_getElem hi.live b i hlt, hx]
  rfl

include h

/-- Rows T1 to T4. -/
theorem answersRow_idle (hs : s.state = .idle) : t.AnswersRow (transition s b) := by
  have hph := hi.phase
  rw [State.Phase, hs] at hph
  obtain ⟨hcount, -, -⟩ := hph
  rw [submitByte, hs] at h
  rcases idleArm_next h with ⟨hb, rfl⟩ | ⟨hb, hcap, rfl⟩ | ⟨hb, hcap, ⟨hn, rfl⟩ | ⟨hn, rfl⟩⟩
  · have hrow : transition s b = (.idle, 0, .discard) := by simp [transition, hs, hb]
    rw [hrow]
    exact ⟨hs, hcount, rfl, rfl⟩
  · have hrow : transition s b = (.idle, 0, .bufferOverflow) := by simp [transition, hs, hb, hcap]
    rw [hrow]
    exact s.reject_answersRow (by decide)
  · have hrow : transition s b = (.syncPartial, 1, .sync1) := by simp [transition, hs, hb, Nat.not_lt.2 hcap, hn]
    rw [hrow]
    exact ⟨rfl, congrArg (· + 1) hcount, rfl, rfl⟩
  · have hrow : transition s b = (.headerPending, 1, .sync1) := by simp [transition, hs, hb, Nat.not_lt.2 hcap, hn]
    rw [hrow]
    exact ⟨rfl, congrArg (· + 1) hcount, rfl, rfl⟩

/-- Rows T5 to T7. -/
theorem answersRow_syncPartial (hs : s.state = .syncPartial) : t.AnswersRow (transition s b) := by
  have hph := hi.phase
  rw [State.Phase, hs] at hph
  obtain ⟨-, hcount, -⟩ := hph
  rw [submitByte, hs] at h
  rcases syncPartialArm_next h with ⟨hb, rfl⟩ | ⟨hb, hcap, rfl⟩ | ⟨hb, hcap, rfl⟩
  · have hrow : transition s b = (.idle, 0, .invalidSync) := by simp [transition, hs, hb]
    rw [hrow]
    exact s.reject_answersRow (by decide)
  · have hrow : transition s b = (.idle, 0, .bufferOverflow) := by simp [transition, hs, hb, hcap]
    rw [hrow]
    exact s.reject_answersRow (by decide)
  · have hrow : transition s b = (.headerPending, 2, .sync2) := by simp [transition, hs, hb, Nat.not_lt.2 hcap]
    rw [hrow]
    exact ⟨rfl, congrArg (· + 1) hcount, rfl, rfl⟩

omit h in
/-- The row of the byte that completes the header, on the format byte `f` and the high length byte `l1` in RXBUF. -/
theorem transition_headerComplete (hs : s.state = .headerPending) (hcap : s.count + 1 ≤ s.cfg.rxCap)
    (hcount : s.count + 1 = s.cfg.headerLen) {f l1 : Byte}
    (hf : Memory.read (s.store b).rxbuf s.cfg.nsync.toNat = some f)
    (hl1 : Memory.read (s.store b).rxbuf (s.cfg.nsync.toNat + 1) = some l1) :
    transition s b =
      if supported (hiNibble f) = false then (.idle, 0, .invalidAlgorithm)
      else if be16 l1 b < s.cfg.headerLen + checkLen (hiNibble f) ∨ s.cfg.rxMax < be16 l1 b then
        (.idle, 0, .lengthOutOfBounds)
      else if s.cfg.headerLen < be16 l1 b then (.bodyPending, s.cfg.headerLen, .hdrOk)
      else (.idle, 0, .deliver) := by
  have hn := headerLen_eq s.cfg
  simp only [transition, hs, hi.getD_of_read_store (by omega) hf, hi.getD_of_read_store (by omega) hl1]
  rw [if_neg (Nat.not_lt.2 hcap), if_neg (Nat.not_lt.2 hcount.ge)]

/-- Rows T8 to T13; T13 delivers the empty payload. -/
theorem answersRow_header (hs : s.state = .headerPending) :
    t.AnswersRow (transition s b) ∧ ((transition s b).2.2 = .deliver → t.out.deliver = some []) := by
  obtain ⟨-, hmax⟩ := hi.count_header hs
  rw [submitByte, hs] at h
  rcases headerArm_next h with ⟨hcap, rfl⟩ | ⟨hcap, ⟨hlt, rfl⟩ | ⟨hge, h⟩⟩
  · have hrow : transition s b = (.idle, 0, .bufferOverflow) := by simp [transition, hs, hcap]
    rw [hrow]
    exact ⟨s.reject_answersRow (by decide), nofun⟩
  · have hrow : transition s b = (.headerPending, s.count + 1, .hdr) := by
      simp [transition, hs, Nat.not_lt.2 hcap, hlt]
    rw [hrow]
    exact ⟨⟨hs, rfl, rfl, rfl⟩, nofun⟩
  · have hcount : s.count + 1 = s.cfg.headerLen := by omega
    obtain ⟨f, l1, l2, hf, hl1, hl2, h⟩ := headerCheck_next h
    obtain rfl : b = l2 := by
      have hlast : (s.store b).cfg.nsync.toNat + 2 = s.count := by rw [headerLen_eq] at hcount; simp; omega
      rw [hlast, State.store_rxbuf, Memory.read_write_same] at hl2
      exact Option.some.inj hl2
    rw [transition_headerComplete hi hs hcap hcount hf hl1]
    rcases acceptHeader_next h with ⟨hsup, rfl⟩ | ⟨hsup, hbad, rfl⟩ | ⟨hsup, hlo, hhi, hend⟩
    · rw [if_pos hsup]
      exact ⟨State.reject_answersRow _ (by decide), nofun⟩
    · rw [State.store_cfg] at hbad
      rw [if_neg (by simp [hsup]), if_pos hbad]
      exact ⟨State.reject_answersRow _ (by decide), nofun⟩
    · rw [State.store_cfg] at hlo hhi
      rw [State.store_count] at hend
      rw [if_neg (by simp [hsup]), if_neg (by omega)]
      rcases hend with ⟨hne, rfl⟩ | ⟨heq, h⟩
      · rw [if_pos (by omega)]
        exact ⟨⟨rfl, hcount, rfl, rfl⟩, nofun⟩
      · rw [if_neg (by omega)]
        have hnone : hiNibble f = 0 := BitVec.eq_of_toNat_eq (by
          rw [← checkLen_supported hsup]
          exact Nat.le_zero.1 (by omega))
        cases (frameComplete_emptyNone (s := { s.store b with alg := hiNibble f, pktlen := be16 l1 b }) hnone
          (heq.symm.trans hcount)).symm.trans h
        exact ⟨State.deliver_answersRow _ [], fun _ => rfl⟩

end

/-- The table's own test of a whole frame agrees with the check field (41 R146, R147). -/
theorem goodFrame_iff {c : Config} {f : List Byte} (hs : supported (frameAlg c f) = true) :
    goodFrame c f = true ↔ CheckFits c (frameAlg c f) f := by
  have hspan (j : Nat) : ((f.take j).drop c.nsync.toNat).map BitVec.toNat = (slice f c.nsync.toNat j).map BitVec.toNat := by
    rw [slice, List.drop_take]
  rw [goodFrame, ← frameAlg]
  simp only [hspan, ← byteSum_eq]
  rcases supported_iff.1 hs with ha | ha | ha
  · simp [ha, CheckFits]
  · simp [ha, CheckFits, sum8]
  · simp [ha, CheckFits, sum16]

section
variable {s t : State} {b : Byte} (hi : s.Inv) (h : submitByte b s = .next t)
include hi

/-- In BodyPending the frame collected has the latched algorithm (10 R34). -/
theorem frameAlg_collected (hs : s.state = .bodyPending) : frameAlg s.cfg (s.liveBytes ++ [b]) = s.alg := by
  have hph := hi.phase
  rw [State.Phase, hs] at hph
  obtain ⟨hlo, -, -, -, -, -, f, -, -, hf, -, -, halg, -⟩ := hph
  rw [headerLen_eq] at hlo
  rw [frameAlg, hi.getD_of_read_store (by omega) ((read_store_lt (by omega)).trans hf), halg]

include h

/-- Rows T14 to T17. -/
theorem answersRow_body (hs : s.state = .bodyPending) : t.AnswersRow (transition s b) := by
  have hph := hi.phase
  rw [State.Phase, hs] at hph
  obtain ⟨-, hlt, hsup, hlo, hhi, -, -⟩ := hph
  have halg := frameAlg_collected (b := b) hi hs
  rw [submitByte, hs] at h
  rcases bodyArm_next h with ⟨hcap, rfl⟩ | ⟨hcap, ⟨hmore, rfl⟩ | ⟨hge, h⟩⟩
  · have hrow : transition s b = (.idle, 0, .bufferOverflow) := by simp [transition, hs, hcap]
    rw [hrow]
    exact s.reject_answersRow (by decide)
  · have hrow : transition s b = (.bodyPending, s.count + 1, .body) := by
      simp [transition, hs, Nat.not_lt.2 hcap, hmore]
    rw [hrow]
    exact ⟨hs, rfl, rfl, rfl⟩
  · have hcount : s.count + 1 = s.pktlen := by omega
    have hrow : transition s b = if goodFrame s.cfg (s.liveBytes ++ [b]) then (.idle, 0, .deliver)
        else (.idle, 0, .checksumMismatch) := by
      simp [transition, hs, Nat.not_lt.2 hcap, Nat.not_lt.2 hge]
    have hlen : (s.liveBytes ++ [b]).length = s.pktlen := by simp [liveBytes_length, hcount]
    have hread (i : Nat) (hlt : i < s.pktlen) : Memory.read (s.store b).rxbuf i = (s.liveBytes ++ [b])[i]? :=
      read_store_eq_getElem hi.live b i (by omega)
    have hgood := goodFrame_iff (halg ▸ hsup : supported (frameAlg s.cfg (s.liveBytes ++ [b])) = true)
    rw [halg] at hgood
    rw [hrow]
    have hrx := hhi.trans (rxMax_le_cap _)
    by_cases hfit : CheckFits s.cfg s.alg (s.liveBytes ++ [b])
    · rw [if_pos (hgood.2 hfit)]
      cases (frameComplete_of_fits (s := s.store b) hlen hrx hread hsup hlo (.inl hcount.ge) hfit).symm.trans h
      exact State.deliver_answersRow _ _
    · rw [if_neg (mt hgood.1 hfit)]
      cases (frameComplete_of_not_fits (s := s.store b) hlen hrx hread hsup hlo (.inl hcount.ge) hfit).symm.trans h
      exact State.reject_answersRow _ (by decide)

/-- A SUBMIT in the invariant takes the first row of the table that applies (41 R153). -/
theorem submitByte_answersRow : t.AnswersRow (transition s b) := by
  cases hs : s.state with
  | idle => exact answersRow_idle hi h hs
  | syncPartial => exact answersRow_syncPartial hi h hs
  | headerPending => obtain ⟨hrow, -⟩ := answersRow_header hi h hs; exact hrow
  | bodyPending => exact answersRow_body hi h hs

end

/-- Settles O20, STATE by STATE. -/
theorem submitTakesOneRowOfTheTransitionTable : Obligations.SubmitTakesOneRowOfTheTransitionTable := by
  intro s b hi
  obtain ⟨t, h⟩ := submitByte_answers hi b
  obtain ⟨hstate, hcount, hevent, hdeliver⟩ := submitByte_answersRow hi h
  exact ⟨t, h, hstate, hcount, hevent, hdeliver, fun hs => (answersRow_header hi h hs).2⟩

/-! ### Overflow -/

/-- The rows with E5 need COUNT + 1 > RXCAP. -/
theorem transition_overflow {s : State} {b : Byte} (h : (transition s b).2.2 = .bufferOverflow) :
    s.cfg.rxCap < s.count + 1 := by
  by_contra hcap
  cases hs : s.state <;> simp only [transition, hs, if_neg hcap] at h <;> split_ifs at h

/-- The rows with a delivery need room for the byte, and a whole header with it. -/
theorem transition_deliver {s : State} {b : Byte} (h : (transition s b).2.2 = .deliver) :
    s.count + 1 ≤ s.cfg.rxCap ∧ (s.state = .bodyPending ∨ s.cfg.headerLen ≤ s.count + 1) := by
  cases hs : s.state with
  | idle | syncPartial =>
    simp only [transition, hs] at h
    split_ifs at h
  | headerPending =>
    simp only [transition, hs] at h
    split_ifs at h
    exact ⟨by omega, .inr (by omega)⟩
  | bodyPending =>
    simp only [transition, hs] at h
    split_ifs at h
    exact ⟨by omega, .inl rfl⟩

/-- Before BodyPending a byte more is still within the header (10 R34). -/
theorem State.Inv.count_lt_headerLen {s : State} (hi : s.Inv) (hs : s.state ≠ .bodyPending) :
    s.count + 1 ≤ s.cfg.headerLen := by
  have hph := hi.phase
  have hn := headerLen_eq s.cfg
  rw [State.Phase] at hph
  split at hph
  · omega
  · omega
  · omega
  · contradiction

/-- In the invariant E5 needs RXCAP < HEADERLEN, and a STATE before BodyPending (41 R155). -/
theorem cap_lt_headerLen_of_overflow {s t : State} {b : Byte} (hi : s.Inv) (h : submitByte b s = .next t)
    (he : t.out.event = some .bufferOverflow) : s.state ≠ .bodyPending ∧ s.cfg.rxCap < s.cfg.headerLen := by
  have hcap := transition_overflow (Option.some.inj ((submitByte_answersRow hi h).event.symm.trans he))
  have hbody : s.state ≠ .bodyPending := fun hs => by
    obtain ⟨-, hcount, hroom⟩ := hi.count_body hs
    omega
  exact ⟨hbody, hcap.trans_le (hi.count_lt_headerLen hbody)⟩

/-- Settles O24: the rows of the table with E5 and with a delivery, and the invariant before and after. -/
theorem overflowOnlyBelowHeaderLen : Obligations.OverflowOnlyBelowHeaderLen := by
  intro s t b hi h
  refine ⟨fun hcap he => ?_, fun hs he => ?_, fun hcap => ?_⟩
  · exact absurd (cap_lt_headerLen_of_overflow hi h he).2 (Nat.not_lt.2 hcap)
  · exact (cap_lt_headerLen_of_overflow hi h he).1 hs
  · have hbody {u : State} (hu : u.Inv) (hcfg : u.cfg = s.cfg) : u.state ≠ .bodyPending := fun hs => by
      obtain ⟨hlo, hhi, hroom⟩ := hu.count_body hs
      rw [hcfg] at hlo hroom
      omega
    have hnone : t.out.deliver = none := by
      rw [← Option.isNone_iff_eq_none, ← Option.not_isSome, (submitByte_answersRow hi h).deliver,
        Bool.not_eq_eq_eq_not, Bool.not_true, decide_eq_false_iff_not]
      intro he
      obtain ⟨hroom, hs | hcount⟩ := transition_deliver he
      · exact hbody hi rfl hs
      · omega
    refine ⟨hbody (submitByte_inv hi h) (submitByte_keeps h).cfg, hnone, ?_⟩
    rw [submitByte_sink h, hnone, Option.toList_none, List.append_nil]

/-! ### What one SUBMIT delivers and stores, from any state -/

/-- Settles O21: among the effects of a SUBMIT, one delivers. -/
theorem submitDeliversAtMostOnce : Obligations.SubmitDeliversAtMostOnce := by
  intro s t b h
  refine ⟨submitByte_sink h, ?_⟩
  cases submitByte_effect h with
  | discard => simp
  | drop e he => rcases he with rfl | rfl <;> simp
  | keep st n a e _ he => rcases he with rfl | rfl | rfl | rfl | rfl <;> simp
  | bad e _ he => rcases he with rfl | rfl | rfl <;> simp
  | deliver p _ => simp

/-- A SUBMIT leaves RXBUF as it was, or stores its byte at COUNT (41 R132). -/
theorem submitByte_rxbuf {b : Byte} {s t : State} (h : submitByte b s = .next t) :
    t.rxbuf = s.rxbuf ∨ t.rxbuf = Memory.write s.rxbuf s.count b := by
  cases submitByte_effect h with
  | discard | drop => exact .inl rfl
  | keep | bad | deliver => exact .inr rfl

/-- Settles O23: an arm that answers is the SUBMIT of its byte. -/
theorem submitWritesOneRxByteAndNoTx : Obligations.SubmitWritesOneRxByteAndNoTx := by
  intro s t b i hrow h
  have hsubmit : submitByte b s = .next t := by
    simp only [List.mem_cons, List.not_mem_nil, or_false] at hrow
    rcases hrow with rfl | rfl | rfl | rfl | rfl
    · exact h
    · exact arm_next ((execSubmitIdle_eq b s).symm.trans h)
    · exact arm_next ((execSubmitSyncPartial_eq b s).symm.trans h)
    · exact arm_next ((execSubmitHeader_eq b s).symm.trans h)
    · exact arm_next ((execSubmitBody_eq b s).symm.trans h)
  obtain ⟨hcfg, htx, hacc, hcmds⟩ := submitByte_keeps hsubmit
  refine ⟨htx, hcfg, hacc, hcmds, ?_⟩
  rcases submitByte_rxbuf hsubmit with hrx | hrx <;> rw [hrx]
  · exact ⟨fun _ _ => rfl, .inl rfl⟩
  · exact ⟨fun j hj => Memory.read_write_ne _ _ hj.symm, .inr (Memory.read_write_same ..)⟩

end Sys2Proof.Machine
end

section
/-! ACC beside the other operations (log entry 3): each but the incremental steps works alike whatever ACC holds. -/

namespace Sys2Proof.Machine

/-- The state with `x` in ACC. -/
def State.withAcc (s : State) (x : Half) : State := { s with acc := x }

/-- An operation that leaves ACC as it was and answers alike, but for it, with any other value there. -/
def AccFree (f : State → Result) : Prop :=
  ∀ (s t : State) (x : Half), f s = .next t → t.acc = s.acc ∧ f (s.withAcc x) = .next (t.withAcc x)

/-- What works beside ACC, TXBUF and the command stream, and writes none of them, is free of ACC. -/
theorem AccFree.of_beside {f : State → Result} (hkeeps : ∀ {s t}, f s = .next t → s.DecoderKeeps t)
    (hbeside : ∀ s r, f (s.beside r) = besideOf r (f s)) : AccFree f := by
  intro s t x h
  obtain ⟨-, htx, hacc, hcmds⟩ := hkeeps h
  refine ⟨hacc, ?_⟩
  calc f (s.withAcc x) = besideOf (s.withAcc x) (f s) := hbeside s (s.withAcc x)
    _ = .next (t.withAcc x) := by
      rw [h, besideOf_next]
      simp only [State.beside, State.withAcc, htx, hcmds]

theorem submitByte_accFree (b : Byte) : AccFree (submitByte b) := .of_beside submitByte_keeps (submitByte_beside b)

theorem submitAll_accFree (bs : List Byte) : AccFree (submitAll bs) := by
  induction bs with
  | nil => rintro s _ x ⟨⟩; exact ⟨rfl, rfl⟩
  | cons b bs ih =>
    intro s t x h
    obtain ⟨u, hu, h⟩ := andThen_next h
    obtain ⟨huacc, hux⟩ := submitByte_accFree b s u x hu
    obtain ⟨hacc, hx⟩ := ih u t x h
    exact ⟨hacc.trans huacc, by rw [submitAll, hux, andThen_of_next, hx]⟩

/-- An arm is the SUBMIT of its byte or refused, and STATE alone decides which. -/
theorem AccFree.of_arm {f : State → Result} {st : DecoderState} {b : Byte}
    (hf : ∀ s, f s = if s.state = st then submitByte b s else .refused .armNotSelected) : AccFree f := by
  intro s t x h
  rw [hf] at h
  obtain ⟨hacc, hx⟩ := submitByte_accFree b s t x (arm_next h)
  refine ⟨hacc, ?_⟩
  split at h
  · rw [hf, ← hx]; exact if_pos ‹_›
  · cases h

/-- ENCODE and its rows look at their operands and the configuration (42 R179). -/
theorem AccFree.of_encodeRow {i : Instr} (hrow : ∃ a p, i = .encode a p ∨ (a, i) ∈ encodeRows p) : AccFree (exec i) := by
  intro s t x h
  obtain ⟨a, p, hi⟩ := hrow
  obtain ⟨o, f, henc⟩ := encodeOp_uniform a p s.cfg
  rw [exec_of_encodeRow hi] at h ⊢
  cases (henc s rfl).symm.trans h
  exact ⟨rfl, henc (s.withAcc x) rfl⟩

theorem execPush_accFree (b : Byte) : AccFree (execPush b) := .of_beside execPush_keeps fun _ _ => push_beside rfl

theorem execCk_accFree (a : Nibble) (span : List Byte) : AccFree (execCk a span) := by
  intro s t x h
  rw [execCk] at h ⊢
  split at h <;> cases h
  exact ⟨rfl, rfl⟩

/-- Every operation but RESET and the incremental steps is free of ACC. -/
theorem exec_accFree {i : Instr} (hreset : i ≠ .reset) (hinit : i ≠ .ckInit) (hupdate : ∀ b, i ≠ .ckUpdate b)
    (hfinal : ∀ a, i ≠ .ckFinal a) : AccFree (exec i) := by
  cases i with
  | submit b => exact submitByte_accFree b
  | fmtNone r | fmtSum8 r | fmtSum16 r | fmtCrc16 r | fmtCrc32 r | fmtUnrecognized5 r | fmtUnrecognized6 r
  | fmtUnrecognized7 r | fmtUnrecognized8 r | fmtUnrecognized9 r | fmtUnrecognized10 r | fmtUnrecognized11 r
  | fmtUnrecognized12 r | fmtUnrecognized13 r | fmtUnrecognized14 r | fmtUnrecognized15 r =>
    exact submitByte_accFree (fmtByte _ r)
  | submitIdle b => exact .of_arm (execSubmitIdle_eq b)
  | submitSyncPartial b => exact .of_arm (execSubmitSyncPartial_eq b)
  | submitHeader b => exact .of_arm (execSubmitHeader_eq b)
  | submitBody b => exact .of_arm (execSubmitBody_eq b)
  | frameF2 fmt body | frameF1 fmt body => exact fun s => submitAll_accFree _ s
  | encode | encodeNone | encodeSum8 | encodeSum16 | encodeUnsupported3 | encodeUnsupported4 | encodeUnsupported5
  | encodeUnsupported6 | encodeUnsupported7 | encodeUnsupported8 | encodeUnsupported9 | encodeUnsupported10
  | encodeUnsupported11 | encodeUnsupported12 | encodeUnsupported13 | encodeUnsupported14 | encodeUnsupported15 =>
    exact .of_encodeRow (by simp [encodeRows])
  | push b => exact execPush_accFree b
  | headerCheck => exact .of_beside headerCheck_keeps headerCheck_beside
  | frameComplete => exact .of_beside frameComplete_keeps frameComplete_beside
  | ck a span => exact execCk_accFree a span
  | nop | deliver | resetToIdle | checkLen => rintro s _ x ⟨⟩; exact ⟨rfl, rfl⟩
  | reset => exact absurd rfl hreset
  | ckInit => exact absurd rfl hinit
  | ckUpdate b => exact absurd rfl (hupdate b)
  | ckFinal a => exact absurd rfl (hfinal a)

/-- Settles O50: RESET keeps the ACC of the state it is run on, and the others are free of ACC. -/
theorem onlyTheIncrementalStepsUseAcc : Obligations.OnlyTheIncrementalStepsUseAcc := by
  intro i s t x hinit hupdate hfinal h
  by_cases hreset : i = .reset
  · subst hreset
    cases h
    exact ⟨fun hne => absurd rfl hne, x, fun hne => absurd rfl hne, rfl⟩
  · obtain ⟨hacc, hx⟩ := exec_accFree hreset hinit hupdate hfinal s t x h
    exact ⟨fun _ => hacc, x, fun _ => rfl, hx⟩

end Sys2Proof.Machine
end

section
/-! ENCODE by itself (42_encoder.md): the failures in the order of its tests, the bytes a success writes, and that the frame it
writes is well-formed and follows from the operands and the configuration. -/

namespace Sys2Proof.Machine

/-- CHECKLEN of a supported identifier is the identifier, so the length is the sum 42 R173 writes out. -/
theorem packetLen_supported {a : Nibble} (ha : supported a = true) (c : Config) (p : List Byte) :
    packetLen c a p = c.headerLen + p.length + a.toNat := by
  rw [packetLen, checkLen_supported ha]

/-! ### The failures -/

section
variable {a : Nibble} {p : List Byte} {s : State}

theorem encodeOp_unsupported (ha : supported a = false) : encodeOp a p s = encodeFail .unsupportedAlgorithm s := by
  rw [encodeOp, if_pos (by simp [ha])]

theorem encodeOp_overTxCap (ha : supported a = true) (htx : s.cfg.txCap < packetLen s.cfg a p) :
    encodeOp a p s = encodeFail .outputCapacityExceeded s := by
  rw [encodeOp, if_neg (by simp [ha]), if_pos htx]

theorem encodeOp_overProtoMax (ha : supported a = true) (htx : packetLen s.cfg a p ≤ s.cfg.txCap)
    (hproto : s.cfg.protoMax.toNat < packetLen s.cfg a p) : encodeOp a p s = encodeFail .protocolMaxExceeded s := by
  rw [encodeOp, if_neg (by simp [ha]), if_neg (Nat.not_lt.2 htx), if_pos hproto]

end

/-- The ports of a failing ENCODE (42 R174). -/
theorem Output.ports_of_fail {o : Output} (h : o.encResult = some .fail) : o.encOk = false ∧ o.encPktlen = 0 := by
  rw [Output.encOk, Output.encPktlen, h]
  exact ⟨rfl, rfl⟩

/-- Settles O40: one lemma for each test that fails. -/
theorem encodeFailsWithoutWriting : Obligations.EncodeFailsWithoutWriting := by
  intro s a p i hrow len failed
  have hlen : supported a = true → packetLen s.cfg a p = len := fun ha => packetLen_supported ha s.cfg p
  rw [exec_of_encodeRow hrow, ← supported_iff_toNat_le]
  refine ⟨fun ha => encodeOp_unsupported ?_, fun ha htx => encodeOp_overTxCap ha ?_,
    fun ha htx hproto => encodeOp_overProtoMax ha ?_ ?_, fun t _ hfail => Output.ports_of_fail hfail⟩
  · rw [Bool.eq_false_iff, Ne, supported_iff_toNat_le]
    omega
  all_goals rwa [hlen ha]

/-! ### The bytes of the frame -/

/-- A read after a run of writes from index 0. -/
theorem Memory.read_writeAll_zero (m : Memory) (f : List Byte) (j : Nat) :
    Memory.read (Memory.writeAll m 0 f) j = if j < f.length then f[j]? else Memory.read m j := by
  simp [Memory.read_writeAll]

/-- A byte of the run is read back. -/
theorem Memory.read_writeAll_zero_of_some {f : List Byte} {j : Nat} {b : Byte} (h : f[j]? = some b) (m : Memory) :
    Memory.read (Memory.writeAll m 0 f) j = some b := by
  rw [Memory.read_writeAll_zero, if_pos (List.getElem?_eq_some_iff.1 h).1, h]

section
variable (c : Config) (a r : Nibble) (p : List Byte)

theorem wireFrame_sync1 : (wireFrame c a r p)[0]? = some c.sync1 := by
  rw [wireFrame, syncBytes]
  split <;> rfl

theorem wireFrame_sync2 (h : c.nsync = .two) : (wireFrame c a r p)[1]? = some c.sync2 := by
  rw [wireFrame, syncBytes, h]
  rfl

/-- The bytes after the sync bytes. -/
theorem wireFrame_getElem?_span (k : Nat) : (wireFrame c a r p)[c.nsync.toNat + k]? =
    (checkedSpan c a r p ++ checkField a (checkedSpan c a r p))[k]? := by
  rw [wireFrame, List.append_assoc, ← syncBytes_length, List.getElem?_append_right (Nat.le_add_right ..),
    Nat.add_sub_cancel_left]

/-- The bytes after the header. -/
theorem wireFrame_getElem?_body (k : Nat) : (wireFrame c a r p)[c.headerLen + k]? =
    (p ++ checkField a (checkedSpan c a r p))[k]? := by
  rw [headerLen_eq, Nat.add_assoc, Nat.add_comm 3 k, wireFrame_getElem?_span]
  rfl

theorem wireFrame_getElem?_payload {j : Nat} (hj : j < p.length) : (wireFrame c a r p)[c.headerLen + j]? = p[j]? := by
  rw [wireFrame_getElem?_body, List.getElem?_append_left hj]

theorem wireFrame_getElem?_check (k : Nat) : (wireFrame c a r p)[c.headerLen + p.length + k]? =
    (checkField a (checkedSpan c a r p))[k]? := by
  rw [Nat.add_assoc, wireFrame_getElem?_body, List.getElem?_append_right (Nat.le_add_right ..), Nat.add_sub_cancel_left]

end

/-- The check field of Sum8 is its check value (42 R176). -/
theorem checkField_one (span : List Byte) : checkField 1 span = [BitVec.ofNat 8 (sum8 span)] := beBytes_one _

/-- The check field of Sum16 is its check value, big-endian (42 R176). -/
theorem checkField_two (span : List Byte) : checkField 2 span = [hiByte (sum16 span), loByte (sum16 span)] := beBytes_two _

/-- The ports of a successful ENCODE (42 R177): the length fits the port. -/
theorem Output.ports_of_ok {o : Output} {n : Nat} (h : o.encResult = some (.ok n)) (hn : n < 65536) :
    o.encOk = true ∧ o.encPktlen.toNat = n := by
  rw [Output.encOk, Output.encPktlen, h]
  exact ⟨rfl, (BitVec.toNat_ofNat ..).trans (Nat.mod_eq_of_lt hn)⟩

/-- Settles O41: ENCODE writes the bytes of the frame from index 0, and each field stands at its place in the frame. -/
theorem encodeWritesTheFrame : Obligations.EncodeWritesTheFrame := by
  intro s a p i hrow hsup n len fmt span htx hproto
  have ha : supported a = true := supported_iff_toNat_le.2 hsup
  have hlen : packetLen s.cfg a p = len := packetLen_supported ha s.cfg p
  have hspan : checkedSpan s.cfg a 0 p = span := by
    rw [checkedSpan, hlen, fmtByte_eq_ofNat]
    rfl
  have hports := Output.ports_of_ok (o := { encResult := some (.ok len) }) rfl (hproto.trans_lt s.cfg.protoMax.isLt)
  have henc := encodeOp_ok ha (hlen.trans_le htx) (hlen.trans_le hproto)
  rw [hlen, encodedFrame_eq_wireFrame, ← exec_of_encodeRow hrow] at henc
  have hread {j : Nat} {b : Byte} (h : (wireFrame s.cfg a 0 p)[j]? = some b) :
      Memory.read (Memory.writeAll s.txbuf 0 (wireFrame s.cfg a 0 p)) j = some b :=
    Memory.read_writeAll_zero_of_some h s.txbuf
  have hheader (k : Nat) : (wireFrame s.cfg a 0 p)[n + k]? = (span ++ checkField a span)[k]? := by
    rw [wireFrame_getElem?_span, hspan]
  have hcheck (k : Nat) : (wireFrame s.cfg a 0 p)[s.cfg.headerLen + p.length + k]? = (checkField a span)[k]? := by
    rw [wireFrame_getElem?_check, hspan]
  refine ⟨_, henc, rfl, hports.1, hports.2, hread (wireFrame_sync1 ..), fun h2 => hread (wireFrame_sync2 _ _ _ _ h2),
    hread (hheader 0), hread (hheader 1), hread (hheader 2), fun j hj => ?_, ?_, ?_, fun j hj => ?_⟩
  · rw [List.getElem?_eq_getElem hj]
    exact hread ((wireFrame_getElem?_payload _ _ _ _ hj).trans (List.getElem?_eq_getElem hj))
  · rintro rfl
    exact hread ((hcheck 0).trans (congrArg (·[0]?) (checkField_one span)))
  · rintro rfl
    exact ⟨hread ((hcheck 0).trans (congrArg (·[0]?) (checkField_two span))),
      hread ((hcheck 1).trans (congrArg (·[1]?) (checkField_two span)))⟩
  · rw [Memory.read_writeAll_zero, wireFrame_length ha, hlen, if_neg (Nat.not_lt.2 hj)]

/-! ### What a success says -/

/-- An ENCODE that answers ok(len) passed its tests and wrote the frame. -/
theorem encodeOp_wrote {a : Nibble} {p : List Byte} {s t : State} {len : Nat} (h : encodeOp a p s = .next t)
    (hok : t.out.encResult = some (.ok len)) :
    supported a = true ∧ len = packetLen s.cfg a p ∧ len ≤ s.cfg.txCap ∧ len ≤ s.cfg.protoMax.toNat ∧
      ∀ j, j < len → Memory.read t.txbuf j = (encodedFrame s.cfg a p)[j]? := by
  obtain ⟨c, hfail⟩ | ⟨ha, htx, hproto, hnext⟩ := encodeOp_cases a p s
  · cases hfail.symm.trans h
    cases hok
  · cases hnext.symm.trans h
    cases hok
    refine ⟨ha, rfl, htx, hproto, fun j hj => ?_⟩
    rw [Memory.read_writeAll_zero, encodedFrame_length _ ha, if_pos hj]

/-- Of the configuration the frame takes the sync bytes only. -/
theorem encodedFrame_congr {c d : Config} (hn : c.nsync = d.nsync) (h1 : c.sync1 = d.sync1) (h2 : c.sync2 = d.sync2)
    (a : Nibble) (p : List Byte) : encodedFrame c a p = encodedFrame d a p := by
  have hlen : packetLen c a p = packetLen d a p := by rw [packetLen, packetLen, headerLen_eq, headerLen_eq, hn]
  have hsync : syncBytes c = syncBytes d := by rw [syncBytes, syncBytes, hn, h1, h2]
  rw [encodedFrame, encodedFrame, hlen, hsync]

/-- Settles O42: the frame is the one the decoder's own configuration gives, and that one is well-formed for it. -/
theorem encodedFrameIsWellFormed : Obligations.EncodedFrameIsWellFormed := by
  intro s t a p len h hok
  obtain ⟨ha, hlen, htx, hproto, hread⟩ := encodeOp_wrote h hok
  have hlength : (encodedFrame s.cfg a p).length = len := (encodedFrame_length _ ha p).trans hlen.symm
  refine ⟨hlen, htx, hproto, encodedFrame s.cfg a p, hlength, hread, getD_wireFrame 0 p 0, fun c hn h1 h2 hmax hcap => ?_⟩
  have hframe := encodedFrame_congr hn h1 h2 a p
  have hfits : packetLen c a p ≤ c.rxMax := by
    rw [← encodedFrame_length c ha, hframe, hlength]
    exact le_min hcap (by rwa [hmax])
  rw [← hframe, encodedFrame_eq_wireFrame]
  exact ⟨wireFrame_wf ha 0 p hfits, framePayload_wireFrame ha 0 p⟩

/-- Settles O44: the outputs agree on all states of a configuration, and on success the bytes are those of the frame, which
the configuration and the operands give. -/
theorem encodeDependsOnItsOperandsOnly : Obligations.EncodeDependsOnItsOperandsOnly := by
  intro s s' a p hcfg
  obtain ⟨o, f, henc⟩ := encodeOp_uniform a p s.cfg
  refine ⟨_, _, henc s rfl, henc s' hcfg.symm, rfl, fun len j hok hj => ?_⟩
  obtain ⟨-, -, -, -, hread⟩ := encodeOp_wrote (henc s rfl) hok
  obtain ⟨-, -, -, -, hread'⟩ := encodeOp_wrote (henc s' hcfg.symm) hok
  rw [hread j hj, hread' j hj, hcfg]

end Sys2Proof.Machine
end

section
/-! Rejections and the reset to Idle (60_exceptions.md): a SUBMIT that ends in E1 to E5 is `State.reject`, with its byte stored
or not. -/

namespace Sys2Proof.Machine

/-- Settles O9: both are the reset to Idle with the outputs cleared, and RESET keeps the ACC it is run on. -/
theorem resetToIdleEqualsReset : Obligations.ResetToIdleEqualsReset := fun s =>
  ⟨s.toIdle.quiet, s.acc, rfl, rfl, rfl⟩

/-- E1 and E5 come before the byte is stored, E2, E3 and E4 after it (60 R201). -/
theorem submitByte_rejected {s t : State} {b : Byte} {e : Event}
    (he : e ∈ [Event.invalidSync, .invalidAlgorithm, .lengthOutOfBounds, .checksumMismatch, .bufferOverflow])
    (h : submitByte b s = .next t) (ht : t.out.event = some e) :
    (e = .invalidSync ∨ e = .bufferOverflow) ∧ t = s.reject e ∨
      (e = .invalidAlgorithm ∨ e = .lengthOutOfBounds ∨ e = .checksumMismatch) ∧ t = (s.store b).reject e := by
  cases submitByte_effect h with
  | discard =>
    cases ht
    exact absurd he (by decide)
  | drop e' hdrop =>
    cases ht
    exact .inl ⟨hdrop, rfl⟩
  | keep st n a e' _ hkeep =>
    cases ht
    rcases hkeep with rfl | rfl | rfl | rfl | rfl <;> exact absurd he (by decide)
  | bad e' _ hbad =>
    cases ht
    exact .inr ⟨hbad, rfl⟩
  | deliver p _ =>
    cases ht
    exact absurd he (by decide)

/-- Settles O22: a rejected SUBMIT is the reset to Idle with its event, on the state as before or with the byte stored. -/
theorem rejectionEndsInTheResetState : Obligations.RejectionEndsInTheResetState := by
  intro s t b e he h ht
  rcases submitByte_rejected he h ht with ⟨hdrop, rfl⟩ | ⟨hbad, rfl⟩
  · refine ⟨rfl, fun _ => rfl, fun hbad => ?_⟩
    rcases hdrop with rfl | rfl <;> simp at hbad
  · refine ⟨rfl, fun hdrop => ?_, fun _ => rfl⟩
    rcases hbad with rfl | rfl | rfl <;> simp at hdrop

end Sys2Proof.Machine
end

section
/-! RESET and power-on (70_reset_and_hazards.md): RESET is the reset to Idle with the outputs cleared, and a step of the block
just powered on is NOP. -/

namespace Sys2Proof.Machine

/-- 70 R230, R234: RESET is the reset to Idle run as an operation of its own. -/
theorem exec_reset (s : State) : exec .reset s = .next s.toIdle.quiet := rfl

@[simp] theorem State.powerOn_cmds (c : Config) : (State.powerOn c).cmds = [] := rfl

@[simp] theorem State.powerOn_out (c : Config) : (State.powerOn c).out = {} := rfl

/-- With the outputs already clear there is nothing for an operation that puts none out to clear. -/
theorem State.quiet_eq_self {s : State} (h : s.out = {}) : s.quiet = s := by
  rw [State.quiet, ← h]

/-- With no operation issued and the outputs clear, a step changes nothing (70 R231: the block waits). -/
theorem step_eq_self {s : State} (hcmds : s.cmds = []) (hout : s.out = {}) : step s = .next s :=
  calc step s = exec .nop s := step_of_cmds_nil hcmds
    _ = .next s.quiet := nopChangesNothing s
    _ = .next s := by rw [State.quiet_eq_self hout]

/-- Settles O5: power-on sets the registers, issues nothing and puts nothing out, so the block waits. -/
theorem powerOnIsIdleAndWaits : Obligations.PowerOnIsIdleAndWaits := fun c =>
  ⟨rfl, rfl, rfl, rfl, rfl, step_eq_self (State.powerOn_cmds c) (State.powerOn_out c)⟩

/-- Settles O8: RESET is the reset to Idle with the outputs cleared, which writes the four registers only. -/
theorem resetClearsTheFourRegisters : Obligations.ResetClearsTheFourRegisters := fun s =>
  ⟨s.toIdle.quiet, exec_reset s, rfl⟩

end Sys2Proof.Machine
end

section
/-! What decoding answers, from the bytes: operands that fit their widths, and what is left of the bytes (30 section 5; log
entries 4 and 5). -/

namespace Sys2Proof

theorem fmtInstr_wf (a r : Nibble) : (fmtInstr a r).wf = true := by
  rw [fmtInstr]; split <;> rfl

/-- The rows of ENCODE_ALG ask of the payload what its length field admits (42 R171). -/
theorem encodeInstr_wf (a : Nibble) (p : List Byte) : (encodeInstr a p).wf = lengthFits p := by
  rw [encodeInstr]; split <;> rfl

/-- A payload that was taken is as long as a 16-bit length says, and the bytes after it end the bytes given. -/
theorem takePayload_fits {bs : List Byte} {k : List Byte → List Byte → Decoded} {r : Instr × List Byte}
    (h : takePayload bs k = .ok r) : ∃ p rest, lengthFits p = true ∧ rest <:+ bs ∧ k p rest = .ok r := by
  obtain ⟨hi, lo, rest, rfl, -, hk⟩ := takePayload_ok h
  refine ⟨_, _, decide_eq_true ?_, (List.drop_suffix ..).trans ⟨[hi, lo], rfl⟩, hk⟩
  exact (List.length_take_le ..).trans_lt (be16_lt hi lo)

theorem decodeEncodeAlg_wf_suffix {w : Byte} {bs rest : List Byte} {i : Instr}
    (h : decodeEncodeAlg w bs = .ok (i, rest)) : i.wf = true ∧ rest <:+ bs := by
  rw [decodeEncodeAlg] at h
  split at h
  · obtain ⟨p, _, hp, hsuf, h⟩ := takePayload_fits h
    cases h
    exact ⟨(encodeInstr_wf ..).trans hp, hsuf⟩
  · cases h

theorem decodeOp_wf_suffix {w : Byte} {bs rest : List Byte} {i : Instr} (h : decodeOp w bs = .ok (i, rest)) :
    i.wf = true ∧ rest <:+ bs := by
  rw [decodeOp] at h
  split at h
  · cases h; exact ⟨rfl, List.suffix_rfl⟩
  · obtain ⟨b, _, rfl, hk⟩ := takeByte_ok h
    cases hk; exact ⟨rfl, List.suffix_cons ..⟩
  · obtain ⟨a, _, rfl, hk⟩ := takeByte_ok h
    split at hk
    · obtain ⟨p, _, hp, hsuf, hk⟩ := takePayload_fits hk
      cases hk; exact ⟨hp, hsuf.trans (List.suffix_cons ..)⟩
    · cases hk
  · cases h; exact ⟨rfl, List.suffix_rfl⟩
  · split at h
    · exact decodeEncodeAlg_wf_suffix h
    · cases h; exact ⟨fmtInstr_wf .., List.suffix_rfl⟩

theorem decodeArm_wf_suffix {w : Byte} {bs rest : List Byte} {i : Instr} (h : decodeArm w bs = .ok (i, rest)) :
    i.wf = true ∧ rest <:+ bs := by
  obtain ⟨b, _, rfl, hk⟩ := takeByte_ok h
  split at hk <;> cases hk <;> exact ⟨rfl, List.suffix_cons ..⟩

/-- The length field of a frame counts its header, so header and body together fit it (30 R84). -/
theorem decodeFrame_fits {hl : Nat} {mk : List Byte → Instr} {bs rest : List Byte} {i : Instr}
    (h : decodeFrame hl mk bs = .ok (i, rest)) : ∃ body, i = mk body ∧ frameFits hl body = true ∧ rest <:+ bs := by
  obtain ⟨hi, lo, tail, rfl, hhl, -, hk⟩ := decodeFrame_ok h
  cases hk
  refine ⟨_, rfl, decide_eq_true ?_, (List.drop_suffix ..).trans ⟨[hi, lo], rfl⟩⟩
  have hlen : (tail.take (be16 hi lo - hl)).length ≤ be16 hi lo - hl := List.length_take_le ..
  have := be16_lt hi lo
  omega

/-- A command is its two leading bytes and operands; what it decodes to is well-formed and leaves an end of the bytes after
those two. -/
theorem decode_wf_suffix {bs rest : List Byte} {i : Instr} (h : decode bs = .ok (i, rest)) :
    ∃ w f operands, bs = w :: f :: operands ∧ i.wf = true ∧ rest <:+ operands := by
  match bs, h with
  | [], h | [_], h => cases h
  | w :: f :: operands, h =>
    refine ⟨w, f, operands, rfl, ?_⟩
    rw [decode] at h
    split at h
    · exact decodeOp_wf_suffix h
    · exact decodeArm_wf_suffix h
    · cases h; exact ⟨fmtInstr_wf .., List.suffix_rfl⟩
    · exact decodeEncodeAlg_wf_suffix h
    · obtain ⟨_, rfl, hfit, hsuf⟩ := decodeFrame_fits h
      exact ⟨hfit, hsuf⟩
    · obtain ⟨_, rfl, hfit, hsuf⟩ := decodeFrame_fits h
      exact ⟨hfit, hsuf⟩
    · cases h

/-- Settles O2: the bytes used are the two leading ones and the operands before the bytes left. -/
theorem decodeAnswersWellFormedExternalRows : Obligations.DecodeAnswersWellFormedExternalRows := by
  intro bs i rest h
  obtain ⟨w, f, _, rfl, hwf, ⟨taken, rfl⟩⟩ := decode_wf_suffix h
  exact ⟨hwf, decode_internal h, w :: f :: taken, rfl, Nat.le_add_left ..⟩

end Sys2Proof
end
